-- ==== Sys2Proof/Word.lean ====
section
/-! DEFINITION. The widths of the block (00_scope.md R9, R12). Everything is unsigned; a value that software sees as
bits is a bit vector, and its `+`, `*`, `^^^`, `>>>`, `<<<` are the wrapping and logical primitives of R13. -/

namespace Sys2Proof

/-- `u64`: a word, a lane, the generator state, the byte counter, the digest (R9: `W = 64`, `CNT_W = 64`). -/
abbrev Word := BitVec 64

/-- `u8`: one byte of a block (R12). -/
abbrev Byte := BitVec 8

/-- `cmd`: the 8-bit command word (30_encoding.md R60). -/
abbrev CommandWord := BitVec 8

/-- `wdata`: the 128-bit operand (20_memory.md R41). -/
abbrev Operand := BitVec 128

/-- `LEN`: the 5-bit length field of `H.ABSORB` (30_encoding.md R62). -/
abbrev Len := BitVec 5

end Sys2Proof
end

