-- ==== Sys2Proof/Config.lean ====
section
/-! DEFINITION. The configuration a block is built with (00_scope.md R9) and the constraints on it (R10). It is static
and no part of the state. `W = 64`, `LANES = 2`, `BLOCK = 16`, `CNT_W = 64`, `N_CTX = 1` and `HAS_WMUL = true` have one
value each and stand in the types of the model; a block without the multiplier is no such block (93_implementation_defined.md
U13). The reference configuration REF is in Machine/Reference.lean. -/

namespace Sys2Proof

/-- `BYTE_ORDER`: which byte of an 8-byte half of a block is its least significant (20_memory.md R42). -/
inductive ByteOrder where
  /-- Byte 0 is least significant (REF). -/
  | little
  /-- Byte 7 is least significant. -/
  | big
deriving DecidableEq, Repr

/-- The parameters of R9 that may differ between builds. -/
structure Config where
  /-- `INC`, the generator increment. -/
  inc : Word
  /-- `Mix`, the generator's output transform. -/
  mix : Word → Word
  /-- `C1`, the compression multiplier. -/
  c1 : Word
  /-- `C2`, the compression XOR constant. -/
  c2 : Word
  /-- `LaneInit`, from a seed to the two initial lanes (42_hasher.md R110, R112). -/
  laneInit : Word → Word × Word
  /-- `Avalanche`, from the merged scalar and the byte counter to the digest (43_finalize.md R130, R133). -/
  avalanche : Word → Word → Word
  /-- `BYTE_ORDER`. -/
  byteOrder : ByteOrder
  /-- `FINAL_MUTATES`: `none` is false, finalization leaves the lanes alone (43_finalize.md R132); `some f` is a build whose
  finalization replaces the lanes by `f` of them. DESIGN CHOICE (log entry 6): the spec gives no formula for `f`. -/
  finalMutates : Option (Word × Word → Word × Word)
  /-- `LATENCY(op)`, cycles from acceptance to response; no rule depends on it (70_reset_and_hazards.md R192). -/
  latency : BitVec 3 → Nat

/-- A free value: what `LATENCY(op)` has above its stated minimum of 1. Nothing in the spec fixes it (R192; log entry 7). -/
opaque Config.latencyAboveOne : BitVec 3 → Nat

/-- The constraints of R10, and the bound R9 puts on the latency. That `Mix`, `LaneInit` and `Avalanche` are total functions
of their arguments alone is in their types. -/
structure Config.Valid (cfg : Config) : Prop where
  /-- `INC` is odd. -/
  inc_odd : cfg.inc.toNat % 2 = 1
  /-- `C1` is odd. -/
  c1_odd : cfg.c1.toNat % 2 = 1
  /-- For every fixed `h` the map `cnt -> Avalanche(h, cnt)` is injective. -/
  avalanche_injective : ∀ h : Word, Function.Injective (cfg.avalanche h)
  /-- `LATENCY(op)` is at least 1. -/
  latency_pos : ∀ op : BitVec 3, 1 ≤ cfg.latency op

end Sys2Proof
end

