-- ==== Sys2Proof/Machine/Primitives.lean ====
section
/-! DEFINITION. The arithmetic primitives of 00_scope.md R13 that bit vectors do not already have, and the two routes to the
wide multiply (41_compress.md R100, R101). -/

namespace Sys2Proof.Machine

open Sys2Proof

/-- `ror64(a, k) = (a >> k) ^ (a << (64 - k))`, `1 <= k <= 63` (R13). -/
def ror64 (a : Word) (k : Nat) : Word := (a >>> k) ^^^ (a <<< (64 - k))

/-- `wmul(a, b) = (hi, lo)` with `hi * 2^64 + lo = a * b` computed in the integers (R13, R100). -/
def wmul (a b : Word) : Word × Word :=
  (BitVec.ofNat 64 (a.toNat * b.toNat / 2 ^ 64), BitVec.ofNat 64 (a.toNat * b.toNat))

/-- `v[31:0]`, widened with zeros. -/
def low32 (v : Word) : Word := (v.extractLsb' 0 32).setWidth 64

/-- The decomposition of the wide multiply into 32-bit partial products (R101), in 64-bit arithmetic. -/
def wmulByParts (a b : Word) : Word × Word :=
  let a0 := low32 a
  let a1 := a >>> 32
  let b0 := low32 b
  let b1 := b >>> 32
  let p00 := a0 * b0
  let p01 := a0 * b1
  let p10 := a1 * b0
  let p11 := a1 * b1
  let mid := (p00 >>> 32) + low32 p01 + low32 p10
  (p11 + (p01 >>> 32) + (p10 >>> 32) + (mid >>> 32), (low32 mid <<< 32) + low32 p00)

end Sys2Proof.Machine
end

