-- ==== Sys2Proof/Machine/Compress.lean ====
section
/-! DEFINITION. The compression primitive of unit CMP (41_compress.md R102): the one function behind ingestion and the lane
merge of finalization. -/

namespace Sys2Proof.Machine

open Sys2Proof

/-- `xp = (x + y) * C1`, both wrapping (R102). -/
def compressX (cfg : Config) (x y : Word) : Word := (x + y) * cfg.c1

/-- `Compress(x, y)` (R102). -/
def compress (cfg : Config) (x y : Word) : Word :=
  let xp := compressX cfg x y
  let p := wmul xp (xp ^^^ cfg.c2)
  xp ^^^ cfg.c2 ^^^ p.2 ^^^ p.1

end Sys2Proof.Machine
end

