-- ==== Sys2Proof/Syntax.lean ====
section
/-! DEFINITION. What the host presents (a command, 30_encoding.md R60) and what it means once decoded (an instruction,
one constructor per row of opcode_table.json). -/

namespace Sys2Proof

/-- A command as it stands on the port: one 8-bit command word and one 128-bit operand, presented together (R60, R66). -/
structure Command where
  /-- `cmd`. -/
  cmd : CommandWord
  /-- `wdata`. -/
  wdata : Operand
deriving DecidableEq, Repr

/-- The six commands of the block (30_encoding.md R63), each with the operand its format carries (R61, R62). -/
inductive Instr where
  /-- `SS.SEED v`, format S (40_seedstream.md R83). -/
  | ssSeed (v : Word)
  /-- `SS.NEXT`, format N (40_seedstream.md R84). -/
  | ssNext
  /-- `SS.DISCARD n`, format S (40_seedstream.md R85). -/
  | ssDiscard (n : Word)
  /-- `H.INIT v`, format S (42_hasher.md R111). -/
  | hInit (v : Word)
  /-- `H.ABSORB LEN, bytes`, format B (42_hasher.md R114). The operand is kept whole: the block, not the decoder, ignores
  the bytes from `LEN` on (R115). -/
  | hAbsorb (len : Len) (wdata : Operand)
  /-- `H.FINAL`, format N (43_finalize.md R131). -/
  | hFinal
deriving DecidableEq, Repr

end Sys2Proof
end

