-- ==== Sys2Proof/WellFormed.lean ====
section
/-! DEFINITION. The one check on an instruction's operands: `LEN` is 0 to 16 (30_encoding.md R62, R65). Every scalar
operand and every block content is legal (60_exceptions.md R162). -/

namespace Sys2Proof

/-- The instruction has a legal encoding: `LEN` from 17 to 31 is reserved (R62). -/
def Instr.wellFormed : Instr → Bool
  | .ssSeed _ => true
  | .ssNext => true
  | .ssDiscard _ => true
  | .hInit _ => true
  | .hAbsorb len _ => decide (len.toNat ≤ 16)
  | .hFinal => true

end Sys2Proof
end

