-- ==== Sys2Proof/Decode.lean ====
section
/-! DEFINITION. The decoder of 30_encoding.md R64, total on all 256 command words, with each reserved word refused by the
name of its group (R65), and the encoder written from the same encoding tables (R61, R63, R67). -/

namespace Sys2Proof

/-- The three groups of reserved command words (R65). All 234 words behave alike: the block answers `ILLEGAL`. -/
inductive Reserved where
  /-- `op` is 000 or 111 (64 words). -/
  | op
  /-- `op` is 001, 010, 011, 100 or 110 and `arg` is not 0 (155 words). -/
  | arg
  /-- `op` is 101 and `LEN` is 17 to 31 (15 words). -/
  | len
deriving DecidableEq, Repr

/-- `op = cmd[7:5]` (R60). -/
def opField (cmd : CommandWord) : BitVec 3 := cmd.extractLsb' 5 3

/-- `arg = cmd[4:0]` (R60). -/
def argField (cmd : CommandWord) : BitVec 5 := cmd.extractLsb' 0 5

/-- The scalar operand of format S: `v = wdata[63:0]`, used whole; `wdata[127:64]` is ignored (R62, 20_memory.md R41). -/
def scalarOperand (wdata : Operand) : Word := wdata.extractLsb' 0 64

/-- The group of a command word that the decoder refuses (R65). -/
def reservedGroup (op : BitVec 3) : Reserved :=
  if op = 0b000#3 ∨ op = 0b111#3 then .op else if op = 0b101#3 then .len else .arg

/-- The decoding algorithm of R64, clause by clause. -/
def decode (c : Command) : Except Reserved Instr :=
  let op := opField c.cmd
  let arg := argField c.cmd
  if op = 0b001#3 ∧ arg = 0 then .ok (.ssSeed (scalarOperand c.wdata))
  else if op = 0b010#3 ∧ arg = 0 then .ok .ssNext
  else if op = 0b011#3 ∧ arg = 0 then .ok (.ssDiscard (scalarOperand c.wdata))
  else if op = 0b100#3 ∧ arg = 0 then .ok (.hInit (scalarOperand c.wdata))
  else if op = 0b101#3 ∧ arg.toNat ≤ 16 then .ok (.hAbsorb arg c.wdata)
  else if op = 0b110#3 ∧ arg = 0 then .ok .hFinal
  else .error (reservedGroup op)

/-- The operand of format S as the listing writes it: the scalar in `wdata[63:0]` and zeros above (R67). -/
def scalarWdata (v : Word) : Operand := 0#64 ++ v

/-- The command of an instruction (R61, R63); where the operand is ignored it is zeros (R67). -/
def encode : Instr → Command
  | .ssSeed v => { cmd := 0b001#3 ++ 0#5, wdata := scalarWdata v }
  | .ssNext => { cmd := 0b010#3 ++ 0#5, wdata := 0 }
  | .ssDiscard n => { cmd := 0b011#3 ++ 0#5, wdata := scalarWdata n }
  | .hInit v => { cmd := 0b100#3 ++ 0#5, wdata := scalarWdata v }
  | .hAbsorb len wdata => { cmd := 0b101#3 ++ len, wdata := wdata }
  | .hFinal => { cmd := 0b110#3 ++ 0#5, wdata := 0 }

/-- A command read off one row of bits: the command word in bits 7..0 (what opcode_table.json numbers), the operand in
bits 135..8; bits from `nbits` on are 0. -/
def commandOfBits (nbits w : Nat) : Command :=
  let bits := w % 2 ^ nbits
  { cmd := BitVec.ofNat 8 bits, wdata := BitVec.ofNat 128 (bits / 2 ^ 8) }

/-- The instruction the decoder reads from a row of opcode_table.json whose bits are `w`. -/
def decodeTableWord (nbits w : Nat) : Option Instr :=
  match decode (commandOfBits nbits w) with
  | .ok i => some i
  | .error _ => none

/-- The hexadecimal digits of the low `4 * n` bits of `v`, most significant first, in capitals (R67). -/
def hexDigits : Nat → Nat → List Char
  | 0, _ => []
  | n + 1, v => hexDigits n (v / 16) ++ ["0123456789ABCDEF".toList.getD (v % 16) '0']

/-- The `cmd:wdata` form of an encoded command (R67): two digits, a colon, 32 digits. -/
def Command.listing (c : Command) : List Char :=
  hexDigits 2 c.cmd.toNat ++ ':' :: hexDigits 32 c.wdata.toNat

end Sys2Proof
end

