-- ==== Sys2Proof/Machine/Reference.lean ====
section
/-! DEFINITION. The reference configuration REF (00_scope.md R9): the constants and the functions the spec fixes as its
canonical variant. The spec itself marks the numbers as its own choice (92_eei_decisions.md D11 to D14; log entry 5). -/

namespace Sys2Proof.Machine

open Sys2Proof

/-- `INC` under REF (40_seedstream.md R81). -/
def refInc : Word := 0x9E3779B97F4A7C15

/-- `Mix(z)` under REF (40_seedstream.md R81). -/
def refMix (z : Word) : Word :=
  let z1 := (z ^^^ (z >>> 30)) * 0xBF58476D1CE4E5B9
  let z2 := (z1 ^^^ (z1 >>> 27)) * 0x94D049BB133111EB
  z2 ^^^ (z2 >>> 31)

/-- `LaneInit(seed)`, variant (i): the first two draws of a generator seeded with `seed` (42_hasher.md R110), for a build with
the given increment and mixer. -/
def laneInitDraws (inc : Word) (mix : Word → Word) (seed : Word) : Word × Word :=
  (mix (seed + inc), mix (seed + inc + inc))

/-- `K`, the multiplier of the REF avalanche (43_finalize.md R130). -/
def refK : Word := 0x9FB21C651E98DF25

/-- `Avalanche(h, cnt)` under REF, the rotate variant (43_finalize.md R130). -/
def refAvalanche (h cnt : Word) : Word :=
  let v1 := h ^^^ ror64 h 49 ^^^ ror64 h 24
  let v2 := v1 * refK
  let v3 := v2 ^^^ ((v2 >>> 35) + cnt)
  let v4 := v3 * refK
  v4 ^^^ (v4 >>> 28)

/-- The configuration REF (R9). -/
def refConfig : Config where
  inc := refInc
  mix := refMix
  c1 := 0xFF51AFD7ED558CCD
  c2 := 0xC4CEB9FE1A85EC53
  laneInit := laneInitDraws refInc refMix
  avalanche := refAvalanche
  byteOrder := .little
  finalMutates := none
  latency := fun op => 1 + Config.latencyAboveOne op

end Sys2Proof.Machine
end

