-- ==== Sys2Proof/Machine/State.lean ====
section
/-! DEFINITION. The state: the four registers of 10_state.md R20, the response the block is offering (20_memory.md R50), and
the two fields that stand for the environment of a step (R31): the moments of the input ports still to come, and the responses
the host has taken (70_reset_and_hazards.md R193). -/

namespace Sys2Proof.Machine

open Sys2Proof

/-- The 1-bit status of a response (00_scope.md R14, 10_state.md R27). -/
inductive Status where
  /-- `OK`, wire value 0. -/
  | ok
  /-- `ILLEGAL`, wire value 1. -/
  | illegal
deriving DecidableEq, Repr

/-- A response: status and 64-bit data (00_scope.md R7, R14). -/
structure Response where
  /-- `rsp_status`. -/
  status : Status
  /-- `rsp_data`. -/
  data : Word
deriving DecidableEq, Repr

/-- One moment of the block's input ports (20_memory.md R50). A moment is no clock cycle: time is not specified (R192). -/
structure PortIn where
  /-- `rst`: reset is asserted (70_reset_and_hazards.md R180). -/
  rst : Bool
  /-- `cmd_valid`: the host offers a command. -/
  cmdValid : Bool
  /-- `cmd`. -/
  cmd : CommandWord
  /-- `wdata`. -/
  wdata : Operand
  /-- `rsp_ready`: the host takes a response if one is offered. -/
  rspReady : Bool
deriving DecidableEq, Repr

/-- The machine's state. `ss`, `l0`, `l1` and `cnt` are the whole architectural state of the block (R20, R28, R30). -/
structure State where
  /-- `SS`, the SeedStream state (R21). -/
  ss : Word
  /-- `L[0]`, hasher lane 0 (R22). -/
  l0 : Word
  /-- `L[1]`, hasher lane 1 (R22). -/
  l1 : Word
  /-- `CNT`, the running count of bytes ingested (R23). -/
  cnt : Word
  /-- The response being offered: `rsp_valid` is high exactly when there is one (R50; log entry 2). -/
  offered : Option Response
  /-- The model's own field: the input ports' moments still to come, the next one first (R31; log entry 1). -/
  inputs : List PortIn
  /-- The model's own field: the responses the host has taken, oldest first (R193; log entry 3). -/
  taken : List Response
deriving DecidableEq, Repr

/-- Reasons the machine stops: there are none. Every command is total (00_scope.md R8), the one exception answers `ILLEGAL` and
the block goes on (60_exceptions.md R160), and nothing else raises one (R162). No step answers a fault (log entry 4). -/
inductive Fault where
deriving DecidableEq, Repr

/-- Reasons the model gives no meaning. -/
inductive Refusal where
  /-- Raised by `exec` for an instruction that has no meaning yet; every instruction of this model has one, so no arm raises it.
  Safe: the model stops where the hardware goes on. -/
  | notModelled (mnemonic : String)
deriving DecidableEq, Repr

/-- The state right after reset (R32, R180): `SS = 0`, `(L[0], L[1]) = LaneInit(0)`, `CNT = 0`, no response offered. No input is
waiting and no response has been taken: the run has not begun (log entries 1 and 3). -/
def State.reset : State where
  ss := 0
  l0 := (refConfig.laneInit 0).1
  l1 := (refConfig.laneInit 0).2
  cnt := 0
  offered := none
  inputs := []
  taken := []

end Sys2Proof.Machine
end

