-- ==== Sys2Proof/Machine/Ops.lean ====
section
/-! DEFINITION. The named operations the meanings share: register writes, the response, the one exception
(60_exceptions.md R160), reset (70_reset_and_hazards.md R180), and one moment of the ports (20_memory.md R50). There is no
memory (R40) and no return from an exception (R166). -/

namespace Sys2Proof.Machine

open Sys2Proof

/-- `SS <- v`. -/
def State.setSS (s : State) (v : Word) : State := { s with ss := v }

/-- `L[0] <- lanes.1`, `L[1] <- lanes.2`, both at once (00_scope.md R14). -/
def State.setLanes (s : State) (lanes : Word × Word) : State := { s with l0 := lanes.1, l1 := lanes.2 }

/-- `CNT <- v`. -/
def State.setCnt (s : State) (v : Word) : State := { s with cnt := v }

/-- `respond(status, data)` (00_scope.md R14): the response is offered until the host takes it (20_memory.md R51). -/
def State.respond (s : State) (status : Status) (data : Word) : State :=
  { s with offered := some { status := status, data := data } }

/-- `raise IllegalCommand`: `respond(ILLEGAL, 0)` with no register written and nothing recorded (R160, R165). -/
def raiseIllegalCommand (s : State) : State := s.respond .illegal 0

/-- The host takes the response that is offered, if one is (20_memory.md R50). -/
def takeResponse (s : State) : State :=
  match s.offered with
  | some r => { s with offered := none, taken := s.taken ++ [r] }
  | none => s

/-- Reset (R180, R181): all four registers take their reset values and a response being offered is withdrawn. The responses
already taken stand (R193). -/
def resetBlock (cfg : Config) (s : State) : State :=
  { s with ss := 0, l0 := (cfg.laneInit 0).1, l1 := (cfg.laneInit 0).2, cnt := 0, offered := none }

/-- The block accepts a command: a legal one is executed by `run`, a reserved word raises `IllegalCommand` (R160). The check
comes first and looks at `cmd` only (R164). -/
def acceptCommand (run : Instr → State → Host.Outcome State Fault Refusal) (c : Command) (s : State) :
    Host.Outcome State Fault Refusal :=
  match decode c with
  | .ok i => run i s
  | .error _ => .next (raiseIllegalCommand s)

/-- What the block does in one moment of its ports. Reset wins over everything (R164, R181). While a response is offered no
command is accepted, and the response is held until it is taken (R47, R50, R51). Otherwise a command that is offered is
accepted. DEDUCED (log entry 8): the order of these three where several ports are high at once. -/
def portMoment (cfg : Config) (run : Instr → State → Host.Outcome State Fault Refusal) (p : PortIn) (s : State) :
    Host.Outcome State Fault Refusal :=
  if p.rst then .next (resetBlock cfg s)
  else if s.offered.isSome then .next (if p.rspReady then takeResponse s else s)
  else if p.cmdValid then acceptCommand run { cmd := p.cmd, wdata := p.wdata } s
  else .next s

/-- One step: the block sees the next moment of its ports. With none to come it stays as it is, idle or still offering its
response (R180, R193). DESIGN CHOICE (log entry 9): that step answers the same state, and is no stop. -/
def portStep (cfg : Config) (run : Instr → State → Host.Outcome State Fault Refusal) (s : State) :
    Host.Outcome State Fault Refusal :=
  match s.inputs with
  | [] => .next s
  | p :: rest => portMoment cfg run p { s with inputs := rest }

/-- A moment in which the host presents a command and nothing else. -/
def presentMoment (c : Command) : PortIn :=
  { rst := false, cmdValid := true, cmd := c.cmd, wdata := c.wdata, rspReady := false }

/-- A moment in which the host is ready to take a response and does nothing else. -/
def takeMoment : PortIn := { rst := false, cmdValid := false, cmd := 0, wdata := 0, rspReady := true }

/-- A moment in which the host asserts reset and does nothing else. -/
def resetMoment : PortIn := { rst := true, cmdValid := false, cmd := 0, wdata := 0, rspReady := false }

/-- The state with a command presented at the very next moment, and the block ready for it. -/
def presentNext (c : Command) (s : State) : State :=
  { s with offered := none, inputs := presentMoment c :: s.inputs }

end Sys2Proof.Machine
end

