-- ==== Sys2Proof/Machine/Finalize.lean ====
section
/-! DEFINITION. Unit FIN, finalization (43_finalize.md): `H.FINAL`. -/

namespace Sys2Proof.Machine

open Sys2Proof

/-- The digest: the lanes merged through the compression primitive, then the avalanche with the byte counter (R131). -/
def digest (cfg : Config) (l0 l1 cnt : Word) : Word := cfg.avalanche (compress cfg l0 l1) cnt

/-- The lanes after finalization: unchanged unless the build is one whose finalization mutates them (R132, R9). -/
def lanesAfterFinal (cfg : Config) (lanes : Word × Word) : Word × Word :=
  match cfg.finalMutates with
  | none => lanes
  | some f => f lanes

/-- `H.FINAL` (R131, R132): it returns the digest; the counter is never written. -/
def hFinalOn (cfg : Config) (s : State) : State :=
  (s.setLanes (lanesAfterFinal cfg (s.l0, s.l1))).respond .ok (digest cfg s.l0 s.l1 s.cnt)

/-- The meaning of `H.FINAL`. -/
def execHFinal (s : State) : Host.Outcome State Fault Refusal := .next (hFinalOn refConfig s)

end Sys2Proof.Machine
end

