-- ==== Sys2Proof/Machine/Operands.lean ====
section
/-! DEFINITION. The operand of `H.ABSORB`: its bytes, the padding, and the two words of a block in either byte order
(20_memory.md R41, R42; 42_hasher.md R115), and the way a host lays bytes out in it (30_encoding.md R67). -/

namespace Sys2Proof.Machine

open Sys2Proof

/-- `B[i] = wdata[8*i+7 : 8*i]` (R41). -/
def operandByte (wdata : Operand) (i : Nat) : Byte := wdata.extractLsb' (8 * i) 8

/-- `P[i]`: byte `i` of the operand below `LEN`, and zero from `LEN` on whatever the host put there (R115). -/
def paddedByte (len : Nat) (wdata : Operand) (i : Nat) : Byte :=
  if i < len then operandByte wdata i else 0

/-- The word made of bytes `p 0` to `p 7` (R42). -/
def assembleWord (order : ByteOrder) (p : Nat → Byte) : Word :=
  match order with
  | .little => p 7 ++ p 6 ++ p 5 ++ p 4 ++ p 3 ++ p 2 ++ p 1 ++ p 0
  | .big => p 0 ++ p 1 ++ p 2 ++ p 3 ++ p 4 ++ p 5 ++ p 6 ++ p 7

/-- `w0 = word(P[0..7])`, `w1 = word(P[8..15])` (R114, R115). -/
def blockWords (order : ByteOrder) (len : Nat) (wdata : Operand) : Word × Word :=
  (assembleWord order (fun i => paddedByte len wdata i),
   assembleWord order (fun i => paddedByte len wdata (8 + i)))

/-- The operand whose bytes are the given ones from `B[0]` on, zeros above (R67). -/
def packBytes : List Byte → Operand
  | [] => 0
  | b :: bs => (packBytes bs <<< 8) ||| b.setWidth 128

/-- The listing's `H.ABSORB len, b0 b1 ...` with exactly `len` bytes (R67). -/
def absorbBytes (bytes : List Byte) : Instr := .hAbsorb (BitVec.ofNat 5 bytes.length) (packBytes bytes)

/-- `le64(v)`: the 8 bytes `v[7:0]` to `v[63:56]` in that order (00_scope.md R16). -/
def le64 (v : Word) : List Byte := (List.range 8).map fun i => v.extractLsb' (8 * i) 8

end Sys2Proof.Machine
end

