-- ==== Sys2Proof/Machine/Hasher.lean ====
section
/-! DEFINITION. Unit ACC, the hasher's accumulator (42_hasher.md): `H.INIT` and `H.ABSORB`. Neither reads or writes `SS`
(10_state.md R25). -/

namespace Sys2Proof.Machine

open Sys2Proof

/-- `H.INIT v` (R111): the lanes of the seed and a zero counter; the generator's own state is not disturbed. -/
def hInitOn (cfg : Config) (v : Word) (s : State) : State := ((s.setLanes (cfg.laneInit v)).setCnt 0).respond .ok 0

/-- One block goes into the accumulator: lane `j` becomes `Compress(L[j], w_j)`, the counter grows by `LEN` modulo `2^64`
(R114, R119). -/
def absorbBlock (cfg : Config) (len : Len) (wdata : Operand) (s : State) : State :=
  let w := blockWords cfg.byteOrder len.toNat wdata
  (s.setLanes (compress cfg s.l0 w.1, compress cfg s.l1 w.2)).setCnt (s.cnt + len.setWidth 64)

/-- `H.ABSORB LEN, bytes` (R114): `LEN` above 16 raises `IllegalCommand`, `LEN = 0` writes no register (R118). -/
def hAbsorbOn (cfg : Config) (len : Len) (wdata : Operand) (s : State) : State :=
  if 16 < len.toNat then raiseIllegalCommand s
  else if len = 0 then s.respond .ok 0
  else (absorbBlock cfg len wdata s).respond .ok 0

/-- The meaning of `H.INIT`. -/
def execHInit (v : Word) (s : State) : Host.Outcome State Fault Refusal := .next (hInitOn refConfig v s)

/-- The meaning of `H.ABSORB`. -/
def execHAbsorb (len : Len) (wdata : Operand) (s : State) : Host.Outcome State Fault Refusal :=
  .next (hAbsorbOn refConfig len wdata s)

end Sys2Proof.Machine
end

