-- ==== Sys2Proof/Machine/SeedStream.lean ====
section
/-! DEFINITION. Unit SSG, the generator (40_seedstream.md): `SS.SEED`, `SS.NEXT`, `SS.DISCARD`. Each has its effect for any
configuration, and its meaning under REF, which is the one `exec` calls. None reads or writes the hasher's registers (R25). -/

namespace Sys2Proof.Machine

open Sys2Proof

/-- `draw(s, k) = Mix(s + k * INC)`: the `k`-th draw of a generator seeded with `s` (R80). -/
def draw (cfg : Config) (seed k : Word) : Word := cfg.mix (seed + k * cfg.inc)

/-- `SS.SEED v` (R83): the seed is stored as given. -/
def ssSeedOn (v : Word) (s : State) : State := (s.setSS v).respond .ok 0

/-- `SS.NEXT` (R84): the state advances by `INC`, and `Mix` of the new state is returned. -/
def ssNextOn (cfg : Config) (s : State) : State :=
  (s.setSS (s.ss + cfg.inc)).respond .ok (cfg.mix (s.ss + cfg.inc))

/-- `SS.DISCARD n` (R85): one multiply whatever `n` is; `Mix` is not evaluated. -/
def ssDiscardOn (cfg : Config) (n : Word) (s : State) : State := (s.setSS (s.ss + n * cfg.inc)).respond .ok 0

/-- The meaning of `SS.SEED`. -/
def execSsSeed (v : Word) (s : State) : Host.Outcome State Fault Refusal := .next (ssSeedOn v s)

/-- The meaning of `SS.NEXT`. -/
def execSsNext (s : State) : Host.Outcome State Fault Refusal := .next (ssNextOn refConfig s)

/-- The meaning of `SS.DISCARD`. -/
def execSsDiscard (n : Word) (s : State) : Host.Outcome State Fault Refusal := .next (ssDiscardOn refConfig n s)

end Sys2Proof.Machine
end

