-- ==== Sys2Proof/Machine/Dispatch.lean ====
section
/-! DEFINITION. One arm per instruction, each one direct call of its meaning. -/

namespace Sys2Proof.Machine

open Sys2Proof

def exec (i : Instr) (s : State) : Host.Outcome State Fault Refusal :=
  match i with
  | .ssSeed v => Sys2Proof.Machine.execSsSeed v s
  | .ssNext => Sys2Proof.Machine.execSsNext s
  | .ssDiscard n => Sys2Proof.Machine.execSsDiscard n s
  | .hInit v => Sys2Proof.Machine.execHInit v s
  | .hAbsorb len wdata => Sys2Proof.Machine.execHAbsorb len wdata s
  | .hFinal => Sys2Proof.Machine.execHFinal s

end Sys2Proof.Machine
end

