-- ==== Sys2Proof/Machine/Step.lean ====
section
/-! DEFINITION. One step of the machine under REF: one moment of the block's ports, in which it may execute one command
(00_scope.md R7). -/

namespace Sys2Proof.Machine

open Sys2Proof

/-- One step. -/
def step (s : State) : Host.Outcome State Fault Refusal := portStep refConfig exec s

/-- `s` with the command whose bits are `w` presented at the next moment and the block ready to accept it. -/
def State.withFetchWord (s : State) (nbits w : Nat) : State := presentNext (commandOfBits nbits w) s

end Sys2Proof.Machine
end

