-- ==== Sys2Proof/Machine/Flags.lean ====
section
/-! DEFINITION. The block has no flags, condition codes or predicates (10_state.md R27): no command leaves a carry, overflow,
zero or busy bit. What stands here is the nearest thing, the block's output ports (20_memory.md R50), each a function of the
state; the status bit of a response is stored nowhere else. -/

namespace Sys2Proof.Machine

open Sys2Proof

/-- The wire value of a status: `0 = OK`, `1 = ILLEGAL` (R50). -/
def statusBit : Status → BitVec 1
  | .ok => 0
  | .illegal => 1

/-- `rsp_valid`: the block offers a response (R50). -/
def rspValid (s : State) : Bool := s.offered.isSome

/-- `cmd_ready`: low from acceptance until the response has been taken (R50). -/
def cmdReady (s : State) : Bool := s.offered.isNone

/-- `rsp_status`, where a response is offered (R50). -/
def rspStatus (s : State) : Option (BitVec 1) := s.offered.map fun r => statusBit r.status

/-- `rsp_data`, where a response is offered (R50). -/
def rspData (s : State) : Option Word := s.offered.map fun r => r.data

end Sys2Proof.Machine
end

