-- ==== Sys2Proof/Machine/Parametric.lean ====
section
/-! DEFINITION. The block of any configuration (00_scope.md R9): the machine of Step.lean with the configuration as an
argument. Every command gives exactly one next state (R8), so an effect is a function from states to states. -/

namespace Sys2Proof.Machine

open Sys2Proof

/-- The effect of an instruction in a block built with `cfg`: its registers written and its response offered. -/
def perform (cfg : Config) (i : Instr) (s : State) : State :=
  match i with
  | .ssSeed v => ssSeedOn v s
  | .ssNext => ssNextOn cfg s
  | .ssDiscard n => ssDiscardOn cfg n s
  | .hInit v => hInitOn cfg v s
  | .hAbsorb len wdata => hAbsorbOn cfg len wdata s
  | .hFinal => hFinalOn cfg s

/-- The effect of a command as it stands on the port: `IllegalCommand` for a reserved word (60_exceptions.md R160). -/
def performCommand (cfg : Config) (c : Command) (s : State) : State :=
  match decode c with
  | .ok i => perform cfg i s
  | .error _ => raiseIllegalCommand s

/-- `exec` for any configuration. -/
def execOn (cfg : Config) (i : Instr) (s : State) : Host.Outcome State Fault Refusal := .next (perform cfg i s)

/-- `step` for any configuration. -/
def stepOn (cfg : Config) (s : State) : Host.Outcome State Fault Refusal := portStep cfg (execOn cfg) s

end Sys2Proof.Machine
end

