-- ==== Sys2Proof/Machine/Sequences.lean ====
section
/-! DEFINITION. The host's sequences of commands (44_compositions.md): `INSERT`, `HASH`, `HASHMANY` and `HASHMANY.CHAIN`. They
are no commands of the block and add no semantics of their own (R140): each command is issued to the block, executed, and its
response taken before the next one is issued (20_memory.md R47), with no other command in between. -/

namespace Sys2Proof.Machine

open Sys2Proof

/-- One transaction: the command is accepted and executed, and the host takes the response (R7, R47). -/
def issue (cfg : Config) (c : Command) (s : State) : State × Response :=
  let t := performCommand cfg c s
  (takeResponse t, t.offered.getD { status := .illegal, data := 0 })

/-- A sequence of commands whose operands depend on no response, one transaction after another. -/
def issueAll (cfg : Config) (cs : List Command) (s : State) : State :=
  cs.foldl (fun s c => (issue cfg c s).1) s

/-- The commands of `INSERT b` (R141): a full block for each 16 bytes in buffer order, then the partial block if there is one. -/
def insertCommands (b : List Byte) : List Command :=
  (List.range (b.length / 16)).map (fun k => encode (absorbBytes ((b.drop (16 * k)).take 16))) ++
    if b.length % 16 = 0 then [] else [encode (absorbBytes (b.drop (16 * (b.length / 16))))]

/-- `INSERT b` (R141): one ingestion call. -/
def insertBuffer (cfg : Config) (b : List Byte) (s : State) : State := issueAll cfg (insertCommands b) s

/-- `HASH b, seed -> d` (R142): construct, ingest once, finalize. -/
def hashBuffer (cfg : Config) (b : List Byte) (seed : Word) (s : State) : State × Word :=
  let r := issue cfg (encode .hFinal) (insertBuffer cfg b (issue cfg (encode (.hInit seed)) s).1)
  (r.1, r.2.data)

/-- The draws of `HASHMANY` (R146): `n` commands `SS.NEXT`, the data kept by the host in order. -/
def drawSeeds (cfg : Config) : Nat → State → State × List Word
  | 0, s => (s, [])
  | n + 1, s =>
    let r := issue cfg (encode .ssNext) s
    let q := drawSeeds cfg n r.1
    (q.1, r.2.data :: q.2)

/-- One word of `HASHMANY` (R146): seed `t`, the buffer, then the index as a second ingestion call, then the digest. -/
def indexedHash (cfg : Config) (b : List Byte) (i : Nat) (t : Word) (s : State) : State × Word :=
  let s1 := insertBuffer cfg b (issue cfg (encode (.hInit t)) s).1
  let r := issue cfg (encode .hFinal) (insertBuffer cfg (le64 (BitVec.ofNat 64 i)) s1)
  (r.1, r.2.data)

/-- The words of `HASHMANY` for the seeds drawn, from index `i` on (R146, R148). -/
def indexedHashes (cfg : Config) (b : List Byte) : Nat → List Word → State → State × List Word
  | _, [], s => (s, [])
  | i, t :: ts, s =>
    let r := indexedHash cfg b i t s
    let q := indexedHashes cfg b (i + 1) ts r.1
    (q.1, r.2 :: q.2)

/-- `HASHMANY b, n, seed -> d[0 .. n-1]`, the canonical extended output (R144, R146); the argument order is that of R145. -/
def hashMany (cfg : Config) (b : List Byte) (n : Nat) (seed : Word) (s : State) : State × List Word :=
  let q := drawSeeds cfg n (issue cfg (encode (.ssSeed seed)) s).1
  indexedHashes cfg b 0 q.2 q.1

/-- The words of `HASHMANY.CHAIN` after the first (R149): `n` more, from index `i`, after the word `prev`; the index and the
previous word are one ingestion call of 16 bytes. -/
def chainedHashes (cfg : Config) : Nat → Nat → Word → State → State × List Word
  | 0, _, _, s => (s, [])
  | n + 1, i, prev, s =>
    let r := issue cfg (encode .hFinal) (insertBuffer cfg (le64 (BitVec.ofNat 64 i) ++ le64 prev) s)
    let q := chainedHashes cfg n (i + 1) r.2.data r.1
    (q.1, r.2.data :: q.2)

/-- `HASHMANY.CHAIN b, n, seed -> d[0 .. n-1]`, the chained variant, which is not canonical (R149, R150). -/
def hashManyChain (cfg : Config) (b : List Byte) (n : Nat) (seed : Word) (s : State) : State × List Word :=
  match n with
  | 0 => (s, [])
  | m + 1 =>
    let r := hashBuffer cfg b seed s
    let q := chainedHashes cfg m 1 r.2 r.1
    (q.1, r.2 :: q.2)

end Sys2Proof.Machine
end

