-- ==== Sys2Proof/Safety.lean ====
section
/-! DEFINITION. What counts as a safe run, in the terms the statements use. The block never stops; a run that contains an
illegal command is a faulted run (60_exceptions.md R160, 93_implementation_defined.md U8), and a host that never takes a
response hangs the block (20_memory.md R51, U15). -/

namespace Sys2Proof.Machine

open Sys2Proof

/-- A response the block can give: `ILLEGAL` comes with data 0 (20_memory.md R50). -/
def Response.proper (r : Response) : Prop := r.status = .illegal → r.data = 0

/-- Every response offered or taken is one the block can give. -/
def ResponsesProper (s : State) : Prop := (∀ r, s.offered = some r → r.proper) ∧ ∀ r ∈ s.taken, r.proper

/-- A faulted run: some response of it, offered or taken, is `ILLEGAL` (R160, U8). DESIGN CHOICE (log entry 18): an `ILLEGAL`
response that reset withdraws before it is taken leaves no fault behind; the spec does not say whether such a run stays a
faulted run (R181, R193). -/
def Faulted (s : State) : Prop := ∃ r, (s.offered = some r ∨ r ∈ s.taken) ∧ r.status = .illegal

/-- The host does nothing for the block in this moment: it neither takes a response nor asserts reset (R51). -/
def PortIn.neglects (p : PortIn) : Bool := !p.rst && !p.rspReady

/-- The instruction is one of the generator's (10_state.md R25). -/
def onGenerator : Instr → Bool
  | .ssSeed _ => true
  | .ssNext => true
  | .ssDiscard _ => true
  | .hInit _ => false
  | .hAbsorb _ _ => false
  | .hFinal => false

/-- The hasher's three registers (10_state.md R25). -/
def State.hasher (s : State) : Word × Word × Word := (s.l0, s.l1, s.cnt)

/-- The four registers, the whole architectural state (10_state.md R20). -/
def State.registers (s : State) : Word × Word × Word × Word := (s.ss, s.l0, s.l1, s.cnt)

/-- The legal command words, as the hexadecimal column of the opcode map lists them (30_encoding.md R63). -/
def legalWord (cmd : CommandWord) : Bool :=
  cmd == 0x20 || cmd == 0x40 || cmd == 0x60 || cmd == 0x80 || cmd == 0xC0 || decide (0xA0 ≤ cmd.toNat ∧ cmd.toNat ≤ 0xB0)

/-- `wdata'`: the operand with bits `127 .. 8*LEN` cleared (42_hasher.md R115). -/
def maskedOperand (len : Nat) (wdata : Operand) : Operand := wdata &&& ~~~(BitVec.allOnes 128 <<< (8 * len))

/-- Two operands agree on every bit that the command word does not ignore (20_memory.md R41, 30_encoding.md R61); a reserved
word, `LEN` from 17 to 31 among them, uses none. -/
def agreeOnUsedBits (cmd : CommandWord) (w w' : Operand) : Prop :=
  if cmd = 0x20 ∨ cmd = 0x60 ∨ cmd = 0x80 then w.extractLsb' 0 64 = w'.extractLsb' 0 64
  else if opField cmd = 0b101#3 ∧ (argField cmd).toNat ≤ 16 then ∀ i < (argField cmd).toNat, operandByte w i = operandByte w' i
  else True

/-- The command is one of the generator's. -/
def generatorCommand (c : Command) : Bool :=
  match decode c with
  | .ok i => onGenerator i
  | .error _ => false

/-- The command is one of the hasher's. -/
def hasherCommand (c : Command) : Bool :=
  match decode c with
  | .ok i => !onGenerator i
  | .error _ => false

/-- The responses to those commands of a sequence that `keep` picks, in order; all of the sequence is issued. -/
def responsesTo (cfg : Config) (keep : Command → Bool) : List Command → State → List Response
  | [], _ => []
  | c :: cs, s =>
    let r := issue cfg c s
    if keep c then r.2 :: responsesTo cfg keep cs r.1 else responsesTo cfg keep cs r.1

/-- What a command adds to the byte counter: the `LEN` of a legal `H.ABSORB`, nothing otherwise (42_hasher.md R117). -/
def ingestedLen (c : Command) : Word :=
  match decode c with
  | .ok (.hAbsorb len _) => len.setWidth 64
  | _ => 0

/-- The bytes a command brings in, in buffer order: `B[0] .. B[LEN-1]` of a legal `H.ABSORB` (42_hasher.md R114). -/
def ingestedBytes (c : Command) : List Byte :=
  match decode c with
  | .ok (.hAbsorb len wdata) => (List.range len.toNat).map (operandByte wdata)
  | _ => []

/-- A full block as a command: `H.ABSORB 16` (42_hasher.md R115). -/
def fullBlock (wdata : Operand) : Command := encode (.hAbsorb 16 wdata)

/-- The operand with its two 8-byte halves exchanged (42_hasher.md R119). -/
def swapHalves (wdata : Operand) : Operand := wdata.extractLsb' 0 64 ++ wdata.extractLsb' 64 64

end Sys2Proof.Machine
end

