-- ==== Sys2Proof/Certificates/Slice0/Obligations.lean ====
section
/-! DEFINITION. The statements for the provers. Those on `exec` and `step` are about the machine under REF; those on
`perform`, `issue` and the host sequences hold for every configuration `cfg` (00_scope.md R9), with R10's constraints as a
premise where the spec's own derivation uses them. Numbers and formulas are written out from the spec, not taken from the
model's definitions. -/

open Sys2Proof Sys2Proof.Machine

/-! ## Encoding -/

/-- 30_encoding.md R64 and R61, both directions of the encoding tables: decoding the encoding of a well-formed instruction gives
it back, with every operand at every value. -/
def Obligations.DecodeOfEncode : Prop := ∀ i : Instr, i.wellFormed = true → decode (encode i) = .ok i

/-- R64: what the decoder accepts is well formed, its command word is the only one of that instruction, and the operand the
encoder writes carries all the decoder reads. -/
def Obligations.EncodeOfDecode : Prop :=
  ∀ (c : Command) (i : Instr), decode c = .ok i →
    i.wellFormed = true ∧ (encode i).cmd = c.cmd ∧ decode { cmd := c.cmd, wdata := (encode i).wdata } = .ok i

/-- R63 and the listing example of R67: words written out from the encoding tables decode to what they stand for. -/
def Obligations.SampleWordsDecode : Prop :=
  decode ⟨0b00100000, 0x3039⟩ = .ok (.ssSeed 12345) ∧
  decode ⟨0b01000000, 0x1234⟩ = .ok .ssNext ∧
  decode ⟨0b01100000, 0x1_FFFFFFFFFFFFFFFF⟩ = .ok (.ssDiscard 0xFFFFFFFFFFFFFFFF) ∧
  decode ⟨0b10000000, 0x3039⟩ = .ok (.hInit 0x3039) ∧
  decode ⟨0b10100011, 0x636261⟩ = .ok (.hAbsorb 3 0x636261) ∧
  decode ⟨0b10110000, 0⟩ = .ok (.hAbsorb 16 0) ∧
  decode ⟨0b10110001, 0⟩ = .error .len ∧
  decode ⟨0b11000000, 0x1234⟩ = .ok .hFinal

/-- R65: the three groups of reserved words, their sizes, and that all of them raise `IllegalCommand` and write no register. -/
def Obligations.ReservedWordsByGroup : Prop :=
  (∀ (cmd : CommandWord) (w : Operand), decode ⟨cmd, w⟩ = .error .op ↔ cmd.toNat / 32 = 0 ∨ cmd.toNat / 32 = 7) ∧
  (∀ (cmd : CommandWord) (w : Operand), decode ⟨cmd, w⟩ = .error .arg ↔
    (cmd.toNat / 32 ∈ [1, 2, 3, 4, 6] ∧ cmd.toNat % 32 ≠ 0)) ∧
  (∀ (cmd : CommandWord) (w : Operand), decode ⟨cmd, w⟩ = .error .len ↔ 0xB1 ≤ cmd.toNat ∧ cmd.toNat ≤ 0xBF) ∧
  ((List.range 256).countP fun n => decode ⟨BitVec.ofNat 8 n, 0⟩ == .error .op) = 64 ∧
  ((List.range 256).countP fun n => decode ⟨BitVec.ofNat 8 n, 0⟩ == .error .arg) = 155 ∧
  ((List.range 256).countP fun n => decode ⟨BitVec.ofNat 8 n, 0⟩ == .error .len) = 15 ∧
  (∀ (cfg : Config) (cmd : CommandWord) (w : Operand) (g : Reserved) (s : State), decode ⟨cmd, w⟩ = .error g →
    performCommand cfg ⟨cmd, w⟩ s = { s with offered := some ⟨.illegal, 0⟩ })

/-- 20_memory.md R41: ignored operand bits change neither state nor response. -/
def Obligations.IgnoredOperandBits : Prop :=
  ∀ (cfg : Config) (cmd : CommandWord) (w w' : Operand) (s : State), agreeOnUsedBits cmd w w' →
    performCommand cfg ⟨cmd, w⟩ s = performCommand cfg ⟨cmd, w'⟩ s

/-! ## The ports and the step -/

/-- 00_scope.md R7: in a moment in which the block is ready and a legal command is offered, the step is `exec` of the decoded
instruction, on the state that has moved past that moment. -/
def Obligations.StepRunsDecodedInstruction : Prop :=
  ∀ (s : State) (p : PortIn) (rest : List PortIn) (i : Instr),
    s.inputs = p :: rest → p.rst = false → s.offered = none → p.cmdValid = true → decode ⟨p.cmd, p.wdata⟩ = .ok i →
      step s = exec i { s with inputs := rest }

/-- 60_exceptions.md R160: a reserved command word that is accepted answers `ILLEGAL, 0`, changes no register and records
nothing. -/
def Obligations.ReservedWordAnswersIllegal : Prop :=
  ∀ (s : State) (p : PortIn) (rest : List PortIn),
    s.inputs = p :: rest → p.rst = false → s.offered = none → p.cmdValid = true → legalWord p.cmd = false →
      step s = .next { s with inputs := rest, offered := some ⟨.illegal, 0⟩ }

/-- 00_scope.md R8: for every state, command word and operand the step gives one next state and one response; a legal command
answers `OK`, an illegal word answers `ILLEGAL` and changes no register. -/
def Obligations.EveryCommandAnswersOnce : Prop :=
  ∀ (s : State) (p : PortIn) (rest : List PortIn),
    s.inputs = p :: rest → p.rst = false → s.offered = none → p.cmdValid = true →
      ∃ (t : State) (r : Response), step s = .next t ∧ t.offered = some r ∧ t.inputs = rest ∧ t.taken = s.taken ∧
        (legalWord p.cmd = true → r.status = .ok) ∧
        (legalWord p.cmd = false → r = ⟨.illegal, 0⟩ ∧ t.registers = s.registers)

/-- 20_memory.md R47 and R50: while a response is offered nothing is accepted; it is held until taken, then joins the responses
taken, and no register changes. Log entry 8 for a moment with several ports high. -/
def Obligations.ResponseHeldUntilTaken : Prop :=
  ∀ (s : State) (p : PortIn) (rest : List PortIn) (r : Response),
    s.inputs = p :: rest → p.rst = false → s.offered = some r →
      step s = .next (if p.rspReady then { s with inputs := rest, offered := none, taken := s.taken ++ [r] }
        else { s with inputs := rest })

/-- 20_memory.md R51: a host that neither takes a response nor resets hangs the block: it holds the response and accepts nothing
more, for any number of steps. Past the end of the inputs this rests on log entry 9. -/
def Obligations.NeglectedResponseHangs : Prop :=
  ∀ (s : State), s.offered.isSome = true → (∀ p ∈ s.inputs, p.neglects = true) →
    ∀ k : Nat, Host.Core.run Sys2Proof.core k s = .next { s with inputs := s.inputs.drop k }

/-- The model's choice (log entry 9): with no moment to come the step changes nothing; and in a moment in which the host does
nothing to an idle block only the moment passes. -/
def Obligations.IdleStepChangesNothing : Prop :=
  (∀ s : State, s.inputs = [] → step s = .next s) ∧
  (∀ (s : State) (p : PortIn) (rest : List PortIn),
    s.inputs = p :: rest → p.rst = false → p.cmdValid = false → s.offered = none → step s = .next { s with inputs := rest })

/-- Reset from every state, whatever else the ports hold in that moment, gives the reset registers (70_reset_and_hazards.md
R180), withdraws a response and executes no command (R181, 60_exceptions.md R164), and lets the responses already taken stand
(R193). That a response is withdrawn and not taken where `rsp_ready` is high in the same moment is the model's reading
(DEDUCED, log entry 8). -/
def Obligations.ResetWinsFromEveryState : Prop :=
  ∀ (s : State) (p : PortIn) (rest : List PortIn), s.inputs = p :: rest → p.rst = true →
    step s = .next { ss := 0, l0 := 0xE220A8397B1DCDAF, l1 := 0x6E789E6AA1B965F4, cnt := 0, offered := none,
                     inputs := rest, taken := s.taken }

/-- R181 and R164: a command accepted just before reset is abandoned: it gives no response and none of its effect can be seen.
That this is so also where `rsp_ready` is high in the moment of the reset is the model's reading (DEDUCED, log entry 8). -/
def Obligations.ResetAbandonsAcceptedCommand : Prop :=
  ∀ (s : State) (p q : PortIn) (rest : List PortIn),
    s.inputs = p :: q :: rest → p.rst = false → s.offered = none → p.cmdValid = true → q.rst = true →
      Host.Core.run Sys2Proof.core 2 s = .next
        { ss := 0, l0 := 0xE220A8397B1DCDAF, l1 := 0x6E789E6AA1B965F4, cnt := 0, offered := none,
          inputs := rest, taken := s.taken }

/-- 10_state.md R32: the registers after reset; the sequence `SS.SEED 0; H.INIT 0` reaches them from any state; `H.FINAL`
straight after reset returns the digest of the empty buffer with seed 0. -/
def Obligations.ResetIsFreshInstances : Prop :=
  State.reset.registers = (0, 0xE220A8397B1DCDAF, 0x6E789E6AA1B965F4, 0) ∧ State.reset.offered = none ∧
  (∀ s : State, (issueAll refConfig [encode (.ssSeed 0), encode (.hInit 0)] s).registers = State.reset.registers) ∧
  exec .hFinal State.reset = .next { State.reset with offered := some ⟨.ok, 0xEEC9CEEFBA1CFDC5⟩ } ∧
  ∀ s : State, (hashBuffer refConfig [] 0 s).2 = 0xEEC9CEEFBA1CFDC5

/-- 20_memory.md R50: the output ports as functions of the state. -/
def Obligations.OutputPorts : Prop :=
  (∀ s : State, cmdReady s = !rspValid s) ∧
  (∀ s : State, rspStatus (s.respond .ok 0) = some 0 ∧ rspStatus (raiseIllegalCommand s) = some 1 ∧
    rspData (raiseIllegalCommand s) = some 0) ∧
  ∀ (s : State) (d : Word), rspValid (s.respond .ok d) = true ∧ rspData (s.respond .ok d) = some d

/-- No state is one from which a step stops. For an accepted command this is R8 and R162; that the step goes on where no moment
of the ports is to come is the model's choice (DESIGN CHOICE, log entry 9). -/
def Obligations.StepNeverStops : Prop := ∀ s : State, ∃ t : State, step s = .next t

/-- R50: the invariant that an `ILLEGAL` response carries data 0, kept by every step from every state that has it. -/
def Obligations.StepKeepsResponsesProper : Prop :=
  ∀ s t : State, ResponsesProper s → step s = .next t → ResponsesProper t

/-- The invariant holds right after reset. -/
def Obligations.ResponsesProperAtReset : Prop := ResponsesProper State.reset

/-- R47 and R193: presenting each command and taking its response, moment by moment, is issuing the commands as transactions in
that order; this is the agreement of the port level with the transaction level the spec is written at. -/
def Obligations.PortsRefineTransactions : Prop :=
  ∀ (cs : List Command) (s : State) (rest : List PortIn), s.offered = none →
    s.inputs = cs.flatMap (fun c => [presentMoment c, takeMoment]) ++ rest →
      Host.Core.run Sys2Proof.core (2 * cs.length) s = .next (issueAll refConfig cs { s with inputs := rest })

/-- The machine is the block of 00_scope.md R9, which takes its configuration as an argument, at REF. That `exec` and `step` fix
the configuration to REF is the model's choice (DESIGN CHOICE, log entry 5). -/
def Obligations.MachineIsBlockAtRef : Prop :=
  (∀ (i : Instr) (s : State), exec i s = execOn refConfig i s) ∧ ∀ s : State, step s = stepOn refConfig s

/-- 60_exceptions.md R165: the illegal command is precise: every earlier and every later command has its full effect and gives
its own response, and the illegal one has no effect; its `ILLEGAL` stands among the responses at its place. -/
def Obligations.IllegalCommandIsPrecise : Prop :=
  ∀ (cfg : Config) (cs ds : List Command) (c : Command) (s : State), legalWord c.cmd = false →
    (issueAll cfg (cs ++ c :: ds) s).registers = (issueAll cfg (cs ++ ds) s).registers ∧
    (let without := responsesTo cfg (fun _ => true) (cs ++ ds) s
     responsesTo cfg (fun _ => true) (cs ++ c :: ds) s =
       without.take cs.length ++ ⟨.illegal, 0⟩ :: without.drop cs.length) ∧
    ∀ t : State, (issue cfg c t).2 = ⟨.illegal, 0⟩ ∧ (issue cfg c t).1.registers = t.registers

/-- R160 and 93_implementation_defined.md U8: the faulted runs are those that contain an illegal command. In a sequence of
transactions every response is taken; of a response that reset withdraws first see log entry 18. -/
def Obligations.FaultedRunsHaveIllegalWord : Prop :=
  ∀ (cfg : Config) (cs : List Command) (s : State), s.offered = none →
    (Faulted (issueAll cfg cs s) ↔ Faulted s ∨ ∃ c ∈ cs, legalWord c.cmd = false)

/-- R47: responses come back in command order, one per command. -/
def Obligations.ResponsesInCommandOrder : Prop :=
  ∀ (cfg : Config) (cs : List Command) (s : State),
    (issueAll cfg cs s).taken = s.taken ++ responsesTo cfg (fun _ => true) cs s ∧
    (responsesTo cfg (fun _ => true) cs s).length = cs.length

/-! ## The instructions: encoding, result and frame -/

/-- Every well-formed instruction completes with an `OK` response, and touches neither the inputs nor what was taken (R8). -/
def Obligations.EveryInstructionCompletes : Prop :=
  ∀ (i : Instr) (s : State), i.wellFormed = true →
    ∃ (t : State) (d : Word), exec i s = .next t ∧ t.offered = some ⟨.ok, d⟩ ∧ t.inputs = s.inputs ∧ t.taken = s.taken

/-- R9: what each instruction does in a block of any configuration, in each of its forms, `Mix`, `LaneInit`, `Avalanche`, `INC`,
`BYTE_ORDER` and `FINAL_MUTATES` being the build's. That a build with `FINAL_MUTATES` true replaces the lanes by a map of the
lanes is the model's choice (DESIGN CHOICE, log entry 6). -/
def Obligations.EffectsInEveryBuild : Prop :=
  ∀ (cfg : Config) (s : State),
    (∀ v : Word, perform cfg (.ssSeed v) s = { s with ss := v, offered := some ⟨.ok, 0⟩ }) ∧
    perform cfg .ssNext s = { s with ss := s.ss + cfg.inc, offered := some ⟨.ok, cfg.mix (s.ss + cfg.inc)⟩ } ∧
    (∀ n : Word, perform cfg (.ssDiscard n) s = { s with ss := s.ss + n * cfg.inc, offered := some ⟨.ok, 0⟩ }) ∧
    (∀ v : Word, perform cfg (.hInit v) s =
      { s with l0 := (cfg.laneInit v).1, l1 := (cfg.laneInit v).2, cnt := 0, offered := some ⟨.ok, 0⟩ }) ∧
    (∀ (len : Len) (w : Operand), 1 ≤ len.toNat → len.toNat ≤ 16 → perform cfg (.hAbsorb len w) s =
      { s with l0 := compress cfg s.l0 (blockWords cfg.byteOrder len.toNat w).1,
               l1 := compress cfg s.l1 (blockWords cfg.byteOrder len.toNat w).2,
               cnt := s.cnt + BitVec.ofNat 64 len.toNat, offered := some ⟨.ok, 0⟩ }) ∧
    (∀ w : Operand, perform cfg (.hAbsorb 0 w) s = { s with offered := some ⟨.ok, 0⟩ }) ∧
    (∀ (len : Len) (w : Operand), 16 < len.toNat → perform cfg (.hAbsorb len w) s = { s with offered := some ⟨.illegal, 0⟩ }) ∧
    (cfg.finalMutates = none → perform cfg .hFinal s =
      { s with offered := some ⟨.ok, cfg.avalanche (compress cfg s.l0 s.l1) s.cnt⟩ }) ∧
    ∀ f : Word × Word → Word × Word, cfg.finalMutates = some f → perform cfg .hFinal s =
      { s with l0 := (f (s.l0, s.l1)).1, l1 := (f (s.l0, s.l1)).2,
               offered := some ⟨.ok, cfg.avalanche (compress cfg s.l0 s.l1) s.cnt⟩ }

/-- 40_seedstream.md R83. -/
def Obligations.SsSeedStoresSeed : Prop :=
  (∀ w : Operand, decode ⟨0x20, w⟩ = .ok (.ssSeed (w.extractLsb' 0 64))) ∧
  ∀ (v : Word) (s : State), exec (.ssSeed v) s = .next { s with ss := v, offered := some ⟨.ok, 0⟩ }

/-- 40_seedstream.md R84, with the increment and the mixer of R81 written out. -/
def Obligations.SsNextReturnsMixOfNewState : Prop :=
  (∀ w : Operand, decode ⟨0x40, w⟩ = .ok .ssNext) ∧
  ∀ s : State,
    let z : Word := s.ss + 0x9E3779B97F4A7C15
    let z1 : Word := (z ^^^ (z >>> 30)) * 0xBF58476D1CE4E5B9
    let z2 : Word := (z1 ^^^ (z1 >>> 27)) * 0x94D049BB133111EB
    exec .ssNext s = .next { s with ss := z, offered := some ⟨.ok, z2 ^^^ (z2 >>> 31)⟩ }

/-- 40_seedstream.md R85, with its corner cases. -/
def Obligations.SsDiscardAdvancesByMultiple : Prop :=
  (∀ w : Operand, decode ⟨0x60, w⟩ = .ok (.ssDiscard (w.extractLsb' 0 64))) ∧
  (∀ (n : Word) (s : State),
    exec (.ssDiscard n) s = .next { s with ss := s.ss + n * 0x9E3779B97F4A7C15, offered := some ⟨.ok, 0⟩ }) ∧
  ∀ s : State,
    exec (.ssDiscard 0) s = .next { s with offered := some ⟨.ok, 0⟩ } ∧
    exec (.ssDiscard 0xFFFFFFFFFFFFFFFF) s =
      .next { s with ss := s.ss - 0x9E3779B97F4A7C15, offered := some ⟨.ok, 0⟩ } ∧
    exec (.ssDiscard 0x8000000000000000) s =
      .next { s with ss := s.ss ^^^ 0x8000000000000000, offered := some ⟨.ok, 0⟩ }

/-- 42_hasher.md R110 and R111: the two draws of a temporary generator, the corner cases, and that the lanes are what
`SS.SEED v; SS.NEXT; SS.NEXT` returns. -/
def Obligations.HInitTakesTwoDraws : Prop :=
  (∀ w : Operand, decode ⟨0x80, w⟩ = .ok (.hInit (w.extractLsb' 0 64))) ∧
  (∀ (v : Word) (s : State),
    exec (.hInit v) s = .next { s with l0 := refMix (v + refInc), l1 := refMix (v + refInc + refInc), cnt := 0,
                                       offered := some ⟨.ok, 0⟩ }) ∧
  (∀ v : Word, refMix (v + refInc) ≠ refMix (v + refInc + refInc)) ∧
  (∀ (v : Word) (s : State),
    responsesTo refConfig (fun _ => true) [encode (.ssSeed v), encode .ssNext, encode .ssNext] s =
      [⟨.ok, 0⟩, ⟨.ok, refMix (v + refInc)⟩, ⟨.ok, refMix (v + refInc + refInc)⟩]) ∧
  ∀ s : State, (perform refConfig (.hInit 0) s).hasher = State.reset.hasher

/-- 42_hasher.md R114 and R115 under REF: the padded words are the halves of the masked operand, each lane goes through the
compression primitive written out over the 128-bit product, the counter grows by `LEN`; `LEN = 0` writes no register and `LEN`
above 16 is illegal. -/
def Obligations.HAbsorbCompressesPaddedBlock : Prop :=
  (∀ (len : Len) (w : Operand), decode ⟨0b101#3 ++ len, w⟩ =
    if len.toNat ≤ 16 then .ok (.hAbsorb len w) else .error .len) ∧
  ∀ (len : Len) (w : Operand) (s : State),
    let fold : Word → Word → Word := fun x y =>
      let xp := (x + y) * 0xFF51AFD7ED558CCD
      let t := xp ^^^ 0xC4CEB9FE1A85EC53
      let product := xp.setWidth 128 * t.setWidth 128
      t ^^^ product.extractLsb' 0 64 ^^^ product.extractLsb' 64 64
    let padded := maskedOperand len.toNat w
    exec (.hAbsorb len w) s = .next
      (if 16 < len.toNat then { s with offered := some ⟨.illegal, 0⟩ }
       else if len.toNat = 0 then { s with offered := some ⟨.ok, 0⟩ }
       else { s with l0 := fold s.l0 (padded.extractLsb' 0 64), l1 := fold s.l1 (padded.extractLsb' 64 64),
                     cnt := s.cnt + BitVec.ofNat 64 len.toNat, offered := some ⟨.ok, 0⟩ })

/-- 42_hasher.md R118: the empty ingestion. -/
def Obligations.EmptyIngestionWritesNothing : Prop :=
  (∀ w : Operand, decode ⟨0xA0, w⟩ = .ok (.hAbsorb 0 w)) ∧
  (∀ (w : Operand) (s : State), exec (.hAbsorb 0 w) s = .next { s with offered := some ⟨.ok, 0⟩ }) ∧
  insertCommands [] = []

/-- 43_finalize.md R131, with the merge and the REF avalanche of R130 written out; the digest's corner cases. -/
def Obligations.HFinalReturnsDigest : Prop :=
  (∀ w : Operand, decode ⟨0xC0, w⟩ = .ok .hFinal) ∧
  (∀ s : State,
    let xp := (s.l0 + s.l1) * 0xFF51AFD7ED558CCD
    let t := xp ^^^ 0xC4CEB9FE1A85EC53
    let product := xp.setWidth 128 * t.setWidth 128
    let h := t ^^^ product.extractLsb' 0 64 ^^^ product.extractLsb' 64 64
    let v1 := h ^^^ h.rotateRight 49 ^^^ h.rotateRight 24
    let v2 := v1 * 0x9FB21C651E98DF25
    let v3 := v2 ^^^ ((v2 >>> 35) + s.cnt)
    let v4 := v3 * 0x9FB21C651E98DF25
    exec .hFinal s = .next { s with offered := some ⟨.ok, v4 ^^^ (v4 >>> 28)⟩ }) ∧
  (∀ (cfg : Config) (x y x' y' c : Word), x + y = x' + y' → digest cfg x y c = digest cfg x' y' c) ∧
  ∀ s : State, s.l0 + s.l1 = 0x2492D73057315D9F → s.cnt = 0 → exec .hFinal s = .next { s with offered := some ⟨.ok, 0⟩ }

/-- 43_finalize.md R132: finalization is a pure read in every build with `FINAL_MUTATES` false, REF among them; two in a row
return the same digest, and a stream goes on after it as if it had not been issued. -/
def Obligations.FinalizationOnlyReads : Prop :=
  refConfig.finalMutates = none ∧
  ∀ cfg : Config, cfg.finalMutates = none →
    (∀ s : State, perform cfg .hFinal s = { s with offered := some ⟨.ok, digest cfg s.l0 s.l1 s.cnt⟩ }) ∧
    (∀ s : State, ∃ d : Word, responsesTo cfg (fun _ => true) [encode .hFinal, encode .hFinal] s = [⟨.ok, d⟩, ⟨.ok, d⟩]) ∧
    ∀ (cs ds : List Command) (s : State),
      (issueAll cfg (cs ++ encode .hFinal :: ds) s).registers = (issueAll cfg (cs ++ ds) s).registers

/-- 10_state.md R25, the frame of every instruction in every build: a generator instruction leaves the hasher's registers, a
hasher instruction leaves `SS`, `H.FINAL` never writes the counter, and none touches the inputs or what was taken. -/
def Obligations.UnitsDoNotAlias : Prop :=
  ∀ (cfg : Config) (i : Instr) (s : State),
    (onGenerator i = true → (perform cfg i s).hasher = s.hasher) ∧
    (onGenerator i = false → (perform cfg i s).ss = s.ss) ∧
    (i = .hFinal → (perform cfg i s).cnt = s.cnt) ∧
    (perform cfg i s).inputs = s.inputs ∧ (perform cfg i s).taken = s.taken

/-- R25, as what one unit cannot learn or change of the other: over any sequence, what the generator holds and answers is what
it holds and answers when every other command is taken out, whatever the hasher held at the start. -/
def Obligations.GeneratorIsolation : Prop :=
  ∀ (cfg : Config) (cs : List Command) (s s' : State), s.ss = s'.ss →
    (issueAll cfg cs s).ss = (issueAll cfg (cs.filter generatorCommand) s').ss ∧
    responsesTo cfg generatorCommand cs s = responsesTo cfg generatorCommand (cs.filter generatorCommand) s'

/-- R25, the other way round: the hasher does not depend on the generator. -/
def Obligations.HasherIsolation : Prop :=
  ∀ (cfg : Config) (cs : List Command) (s s' : State), s.hasher = s'.hasher →
    (issueAll cfg cs s).hasher = (issueAll cfg (cs.filter hasherCommand) s').hasher ∧
    responsesTo cfg hasherCommand cs s = responsesTo cfg hasherCommand (cs.filter hasherCommand) s'

/-- 10_state.md R22: a lane's new value depends on that lane's old value and that lane's word only. -/
def Obligations.LanesAreIndependent : Prop :=
  ∀ (cfg : Config) (len : Len) (w w' : Operand) (s s' : State),
    (s.l0 = s'.l0 → (∀ i < 8, operandByte w i = operandByte w' i) →
      (perform cfg (.hAbsorb len w) s).l0 = (perform cfg (.hAbsorb len w') s').l0) ∧
    (s.l1 = s'.l1 → (∀ i < 8, operandByte w (8 + i) = operandByte w' (8 + i)) →
      (perform cfg (.hAbsorb len w) s).l1 = (perform cfg (.hAbsorb len w') s').l1)

/-- 20_memory.md R45: which commands are idempotent, and which are not, in every build that meets R10 and whose finalization
mutates nothing. -/
def Obligations.IdempotentCommands : Prop :=
  ∀ cfg : Config, cfg.Valid → cfg.finalMutates = none → ∀ (v w : Word) (op : Operand) (len : Len) (s : State),
    (∀ i ∈ [Instr.ssSeed v, .hInit v, .hFinal, .hAbsorb 0 op, .ssDiscard 0],
      (issueAll cfg [encode i, encode i] s).registers = (issueAll cfg [encode i] s).registers ∧
      (issue cfg (encode i) (issue cfg (encode i) s).1).2 = (issue cfg (encode i) s).2) ∧
    (w ≠ 0 → 1 ≤ len.toNat → len.toNat ≤ 16 → ∀ i ∈ [Instr.ssNext, .ssDiscard w, .hAbsorb len op],
      (issueAll cfg [encode i, encode i] s).registers ≠ (issueAll cfg [encode i] s).registers)

/-! ## The generator -/

/-- 40_seedstream.md R80: the closed form of the state and of every draw. -/
def Obligations.DrawsHaveClosedForm : Prop :=
  ∀ (cfg : Config) (seed : Word) (n : Nat) (s : State),
    let q := drawSeeds cfg n (issue cfg (encode (.ssSeed seed)) s).1
    q.1.ss = seed + BitVec.ofNat 64 n * cfg.inc ∧
    q.2 = (List.range n).map fun k => cfg.mix (seed + BitVec.ofNat 64 (k + 1) * cfg.inc)

/-- 40_seedstream.md R86: the discard law, the draw that follows a discard, and the composition of two discards. -/
def Obligations.DiscardLaw : Prop :=
  ∀ (cfg : Config) (s : State),
    (∀ n : Word, (perform cfg (.ssDiscard n) s).registers = ((perform cfg .ssNext)^[n.toNat] s).registers) ∧
    (∀ seed n : Word, responsesTo cfg (fun _ => true) [encode (.ssSeed seed), encode (.ssDiscard n), encode .ssNext] s =
      [⟨.ok, 0⟩, ⟨.ok, 0⟩, ⟨.ok, cfg.mix (seed + (n + 1) * cfg.inc)⟩]) ∧
    ∀ a b : Word, (issueAll cfg [encode (.ssDiscard a), encode (.ssDiscard b)] s).registers =
      (issueAll cfg [encode (.ssDiscard (a + b))] s).registers

/-- 40_seedstream.md R87: one cycle through all states in every build with an odd increment, and under REF the discard that
leads from any state to any other. -/
def Obligations.GeneratorHasFullPeriod : Prop :=
  (∀ cfg : Config, cfg.Valid → ∀ (s : State) (k : Nat),
    (((perform cfg .ssNext)^[k] s).ss = s.ss ↔ 2 ^ 64 ∣ k)) ∧
  (∀ cfg : Config, cfg.Valid → ∀ (s : State) (b : Word), ∃ n : Word, (perform cfg (.ssDiscard n) s).ss = b) ∧
  refInc * 0xF1DE83E19937733D = 1 ∧
  ∀ (s : State) (b : Word), (perform refConfig (.ssDiscard ((b - s.ss) * 0xF1DE83E19937733D)) s).ss = b

/-- 40_seedstream.md R82: the REF mixer is a bijection, and the draw is 0 from exactly one state. -/
def Obligations.RefMixIsBijection : Prop :=
  Function.Bijective refMix ∧ refMix 0 = 0 ∧
  ∀ s : State, (perform refConfig .ssNext s).offered = some ⟨.ok, 0⟩ ↔ s.ss = 0x61C8864680B583EB

/-! ## The multiplier and the compression primitive -/

/-- 41_compress.md R100: the wide product is exact. -/
def Obligations.WideMultiplyIsExact : Prop :=
  ∀ a b : Word, (wmul a b).1.toNat * 2 ^ 64 + (wmul a b).2.toNat = a.toNat * b.toNat ∧
    (wmul a b).1.toNat ≤ 2 ^ 64 - 2

/-- 41_compress.md R101: the route over 32-bit partial products gives the same two words. -/
def Obligations.PartialProductsAgree : Prop := ∀ a b : Word, wmulByParts a b = wmul a b

/-- 41_compress.md R102 in any build, over the 128-bit product. -/
def Obligations.CompressFormula : Prop :=
  ∀ (cfg : Config) (x y : Word),
    let xp := (x + y) * cfg.c1
    let t := xp ^^^ cfg.c2
    let product := xp.setWidth 128 * t.setWidth 128
    compress cfg x y = t ^^^ product.extractLsb' 0 64 ^^^ product.extractLsb' 64 64

/-- 41_compress.md R104. -/
def Obligations.CompressDependsOnSum : Prop :=
  ∀ (cfg : Config) (x y : Word),
    (∀ x' y' : Word, x + y = x' + y' → compress cfg x y = compress cfg x' y') ∧
    compress cfg x y = compress cfg y x ∧ compress cfg x y = compress cfg (x + y) 0 ∧
    compress cfg x y = compress cfg 0 (x + y)

/-- 41_compress.md R105 (a) to (c), and the REF value of (b). -/
def Obligations.CompressCornerValues : Prop :=
  (∀ (cfg : Config) (x y : Word), x + y = 0 → compress cfg x y = cfg.c2) ∧
  (∀ (cfg : Config) (x y : Word), (x + y) * cfg.c1 = cfg.c2 → compress cfg x y = 0) ∧
  (∀ (x y : Word), x + y = 0x2492D73057315D9F → compress refConfig x y = 0) ∧
  ∀ cfg : Config, cfg.Valid → Function.Bijective fun z : Word => z * cfg.c1

/-! ## The accumulator -/

/-- 20_memory.md R42: the two words of a padded block in either byte order, as sums of bytes. -/
def Obligations.WordsAreByteSums : Prop :=
  ∀ (len : Nat) (w : Operand),
    let p : Nat → Nat := fun i => if i < len then (w.extractLsb' (8 * i) 8).toNat else 0
    (blockWords .little len w).1.toNat = ∑ i ∈ Finset.range 8, p i * 2 ^ (8 * i) ∧
    (blockWords .little len w).2.toNat = ∑ i ∈ Finset.range 8, p (8 + i) * 2 ^ (8 * i) ∧
    (blockWords .big len w).1.toNat = ∑ i ∈ Finset.range 8, p (7 - i) * 2 ^ (8 * i) ∧
    (blockWords .big len w).2.toNat = ∑ i ∈ Finset.range 8, p (15 - i) * 2 ^ (8 * i)

/-- 42_hasher.md R115: the padding is the mask, in either byte order, and a full block is used as it is. -/
def Obligations.PaddingIsMasking : Prop :=
  (∀ (order : ByteOrder) (len : Nat) (w : Operand), blockWords order len w = blockWords order 16 (maskedOperand len w)) ∧
  (∀ (len : Nat) (w : Operand), blockWords .little len w =
    ((maskedOperand len w).extractLsb' 0 64, (maskedOperand len w).extractLsb' 64 64)) ∧
  ∀ w : Operand, maskedOperand 16 w = w

/-- 42_hasher.md R117: the counter law, for commands from any state, from `H.INIT`, and for ingestion calls. -/
def Obligations.CounterLaw : Prop :=
  ∀ (cfg : Config) (s : State),
    (∀ cs : List Command, (∀ c ∈ cs, ∀ v : Word, decode c ≠ .ok (.hInit v)) →
      (issueAll cfg cs s).cnt = s.cnt + (cs.map ingestedLen).sum ∧
      ∀ v : Word, (issueAll cfg (encode (.hInit v) :: cs) s).cnt = (cs.map ingestedLen).sum) ∧
    ∀ (bufs : List (List Byte)) (v : Word),
      (bufs.foldl (fun t b => insertBuffer cfg b t) (issue cfg (encode (.hInit v)) s).1).cnt =
        BitVec.ofNat 64 (bufs.map List.length).sum

/-- 42_hasher.md R119: exchanging the halves of every block and the initial lanes exchanges the final lanes and leaves the
digest. -/
def Obligations.ExchangedLanesGiveSameDigest : Prop :=
  ∀ (cfg : Config) (ws : List Operand) (s s' : State), s'.l0 = s.l1 → s'.l1 = s.l0 → s'.cnt = s.cnt →
    let t := issueAll cfg (ws.map fullBlock) s
    let t' := issueAll cfg (ws.map fun w => fullBlock (swapHalves w)) s'
    t'.l0 = t.l1 ∧ t'.l1 = t.l0 ∧ (issue cfg (encode .hFinal) t').2 = (issue cfg (encode .hFinal) t).2

/-- 42_hasher.md R116: two ingestion calls give the commands of one exactly when the first buffer is a multiple of 16 bytes or
the second is empty (or, trivially, the first is). -/
def Obligations.CallBoundaries : Prop :=
  ∀ a b : List Byte, insertCommands a ++ insertCommands b = insertCommands (a ++ b) ↔ 16 ∣ a.length ∨ b = []

/-- 44_compositions.md R141: how many commands an `INSERT` issues, that they bring in exactly the buffer in order, that a partial
block comes last only, and what the counter gains. -/
def Obligations.InsertIngestsBuffer : Prop :=
  ∀ b : List Byte,
    (insertCommands b).length = b.length / 16 + (if b.length % 16 = 0 then 0 else 1) ∧
    (insertCommands b).flatMap ingestedBytes = b ∧
    (∀ c ∈ (insertCommands b).dropLast, (ingestedBytes c).length = 16) ∧
    (∀ c ∈ insertCommands b, ∃ (len : Len) (w : Operand), 1 ≤ len.toNat ∧ decode c = .ok (.hAbsorb len w)) ∧
    ∀ (cfg : Config) (s : State), (insertBuffer cfg b s).cnt = s.cnt + BitVec.ofNat 64 b.length ∧
      (insertBuffer cfg b s).ss = s.ss

/-! ## Finalization -/

/-- 00_scope.md R10: REF meets the constraints of a configuration; the injectivity of its avalanche in the counter is
43_finalize.md R134's derivation. The bound on the latency is R9's and 70_reset_and_hazards.md R192's, kept as a free value
(DEDUCED, log entry 7). -/
def Obligations.RefMeetsConstraints : Prop := refConfig.Valid

/-- 43_finalize.md R134: in every build that meets R10, states with the same lanes and different counters have different digests,
and zero bytes appended within the last block of a buffer change its hash. -/
def Obligations.TrailingZeroBytesChangeDigest : Prop :=
  ∀ cfg : Config, cfg.Valid →
    (∀ l0 l1 c c' : Word, c ≠ c' → digest cfg l0 l1 c ≠ digest cfg l0 l1 c') ∧
    ∀ (b : List Byte) (seed : Word) (k : Nat) (s : State),
      b.length % 16 ≠ 0 → 1 ≤ k → b.length % 16 + k ≤ 16 →
        (hashBuffer cfg b seed s).2 ≠ (hashBuffer cfg (b ++ List.replicate k 0) seed s).2

/-! ## Host sequences -/

/-- 44_compositions.md R142 and R143: the digest does not depend on the state the block was in, the generator is untouched, and
two ingestions in one hash of a message split at a multiple of 16 give the hash of the whole. -/
def Obligations.HashIsDeterministic : Prop :=
  ∀ (cfg : Config) (b : List Byte) (seed : Word) (s s' : State),
    (hashBuffer cfg b seed s).2 = (hashBuffer cfg b seed s').2 ∧ (hashBuffer cfg b seed s).1.ss = s.ss ∧
    ∀ a : List Byte, 16 ∣ a.length →
      (issue cfg (encode .hFinal) (insertBuffer cfg b (insertBuffer cfg a (issue cfg (encode (.hInit seed)) s).1))).2.data =
        (hashBuffer cfg (a ++ b) seed s').2

/-- 44_compositions.md R146: word `i` of the extended output is a function of buffer, seed and `i` only, from whatever state it
is computed; there are `n` words in index order, none for `n = 0`; what is left in `SS` and in the counter. That an index beyond 64 bits is
taken modulo 2^64 is the model's reading of R145 (DEDUCED, log entry 15). -/
def Obligations.ExtendedOutputWordByWord : Prop :=
  ∀ (cfg : Config) (b : List Byte) (n : Nat) (seed : Word) (s s' : State),
    let r := hashMany cfg b n seed s
    r.2 = (List.range n).map (fun i => (indexedHash cfg b i (cfg.mix (seed + BitVec.ofNat 64 (i + 1) * cfg.inc)) s').2) ∧
    r.1.ss = seed + BitVec.ofNat 64 n * cfg.inc ∧
    (n = 0 → r.1.hasher = s.hasher) ∧ (1 ≤ n → r.1.cnt = BitVec.ofNat 64 (b.length + 8))

/-- 44_compositions.md R149: the chained words: the first is `HASH`, and word `n` is what `H.FINAL` returns after
`INSERT le64(n) ++ le64(d[n-1])` on the state that word `n - 1` left; as many as asked for, each sequence a prefix of the longer
one, `SS` untouched, and the counter left. That an index beyond 64 bits is taken modulo 2^64 is the model's reading (DEDUCED, log
entry 15). -/
def Obligations.ChainedOutput : Prop :=
  ∀ (cfg : Config) (b : List Byte) (n : Nat) (seed : Word) (s : State),
    hashManyChain cfg b 0 seed s = (s, []) ∧
    hashManyChain cfg b 1 seed s = ((hashBuffer cfg b seed s).1, [(hashBuffer cfg b seed s).2]) ∧
    (1 ≤ n → ∃ prev : Word,
      let r := hashManyChain cfg b n seed s
      let q := issue cfg (encode .hFinal) (insertBuffer cfg (le64 (BitVec.ofNat 64 n) ++ le64 prev) r.1)
      r.2.getLast? = some prev ∧ hashManyChain cfg b (n + 1) seed s = (q.1, r.2 ++ [q.2.data])) ∧
    (hashManyChain cfg b n seed s).2.length = n ∧
    (hashManyChain cfg b n seed s).2 <+: (hashManyChain cfg b (n + 1) seed s).2 ∧
    (hashManyChain cfg b (n + 1) seed s).2.head? = some (hashBuffer cfg b seed s).2 ∧
    (hashManyChain cfg b (n + 1) seed s).1.ss = s.ss ∧
    (hashManyChain cfg b (n + 1) seed s).1.cnt = BitVec.ofNat 64 (b.length + 16 * n)
end

