-- ==== Sys2Proof/Laws/Decode.lean ====
section
/-! SUPPORT. The fields of a command word, and what they are for a word built from an operation and an argument. -/

namespace Sys2Proof

@[simp] theorem opField_append (op : BitVec 3) (arg : BitVec 5) : opField (op ++ arg) = op := by
  revert op arg; decide

@[simp] theorem argField_append (op : BitVec 3) (arg : BitVec 5) : argField (op ++ arg) = arg := by
  revert op arg; decide

/-- A command word is its two fields (30_encoding.md R60). -/
theorem fields_append (cmd : CommandWord) : (opField cmd ++ argField cmd : BitVec 8) = cmd := by
  revert cmd; decide

/-- The scalar that the encoder writes is the scalar that the decoder reads (R62). -/
@[simp] theorem scalarOperand_scalarWdata (v : Word) : scalarOperand (scalarWdata v) = v := by
  show (0#64 ++ v : BitVec (64 + 64)).extractLsb' 0 64 = v
  ext i hi
  rw [BitVec.getElem_extractLsb', BitVec.getLsbD_append]
  simp [hi]

end Sys2Proof
end

