-- ==== Sys2Proof/Laws/State.lean ====
section
/-! SUPPORT. One lemma per field per update of the state: what each named write leaves and what it changes. -/

namespace Sys2Proof.Machine

open Sys2Proof

section Updates

variable (s : State)

@[simp] theorem State.setSS_ss (v : Word) : (s.setSS v).ss = v := rfl
@[simp] theorem State.setSS_l0 (v : Word) : (s.setSS v).l0 = s.l0 := rfl
@[simp] theorem State.setSS_l1 (v : Word) : (s.setSS v).l1 = s.l1 := rfl
@[simp] theorem State.setSS_cnt (v : Word) : (s.setSS v).cnt = s.cnt := rfl
@[simp] theorem State.setSS_offered (v : Word) : (s.setSS v).offered = s.offered := rfl
@[simp] theorem State.setSS_inputs (v : Word) : (s.setSS v).inputs = s.inputs := rfl
@[simp] theorem State.setSS_taken (v : Word) : (s.setSS v).taken = s.taken := rfl

@[simp] theorem State.setLanes_ss (p : Word × Word) : (s.setLanes p).ss = s.ss := rfl
@[simp] theorem State.setLanes_l0 (p : Word × Word) : (s.setLanes p).l0 = p.1 := rfl
@[simp] theorem State.setLanes_l1 (p : Word × Word) : (s.setLanes p).l1 = p.2 := rfl
@[simp] theorem State.setLanes_cnt (p : Word × Word) : (s.setLanes p).cnt = s.cnt := rfl
@[simp] theorem State.setLanes_offered (p : Word × Word) : (s.setLanes p).offered = s.offered := rfl
@[simp] theorem State.setLanes_inputs (p : Word × Word) : (s.setLanes p).inputs = s.inputs := rfl
@[simp] theorem State.setLanes_taken (p : Word × Word) : (s.setLanes p).taken = s.taken := rfl

@[simp] theorem State.setCnt_ss (v : Word) : (s.setCnt v).ss = s.ss := rfl
@[simp] theorem State.setCnt_l0 (v : Word) : (s.setCnt v).l0 = s.l0 := rfl
@[simp] theorem State.setCnt_l1 (v : Word) : (s.setCnt v).l1 = s.l1 := rfl
@[simp] theorem State.setCnt_cnt (v : Word) : (s.setCnt v).cnt = v := rfl
@[simp] theorem State.setCnt_offered (v : Word) : (s.setCnt v).offered = s.offered := rfl
@[simp] theorem State.setCnt_inputs (v : Word) : (s.setCnt v).inputs = s.inputs := rfl
@[simp] theorem State.setCnt_taken (v : Word) : (s.setCnt v).taken = s.taken := rfl

@[simp] theorem State.respond_ss (st : Status) (d : Word) : (s.respond st d).ss = s.ss := rfl
@[simp] theorem State.respond_l0 (st : Status) (d : Word) : (s.respond st d).l0 = s.l0 := rfl
@[simp] theorem State.respond_l1 (st : Status) (d : Word) : (s.respond st d).l1 = s.l1 := rfl
@[simp] theorem State.respond_cnt (st : Status) (d : Word) : (s.respond st d).cnt = s.cnt := rfl
@[simp] theorem State.respond_offered (st : Status) (d : Word) : (s.respond st d).offered = some { status := st, data := d } := rfl
@[simp] theorem State.respond_inputs (st : Status) (d : Word) : (s.respond st d).inputs = s.inputs := rfl
@[simp] theorem State.respond_taken (st : Status) (d : Word) : (s.respond st d).taken = s.taken := rfl

@[simp] theorem resetBlock_ss (cfg : Config) : (resetBlock cfg s).ss = 0 := rfl
@[simp] theorem resetBlock_l0 (cfg : Config) : (resetBlock cfg s).l0 = (cfg.laneInit 0).1 := rfl
@[simp] theorem resetBlock_l1 (cfg : Config) : (resetBlock cfg s).l1 = (cfg.laneInit 0).2 := rfl
@[simp] theorem resetBlock_cnt (cfg : Config) : (resetBlock cfg s).cnt = 0 := rfl
@[simp] theorem resetBlock_offered (cfg : Config) : (resetBlock cfg s).offered = none := rfl
@[simp] theorem resetBlock_inputs (cfg : Config) : (resetBlock cfg s).inputs = s.inputs := rfl
@[simp] theorem resetBlock_taken (cfg : Config) : (resetBlock cfg s).taken = s.taken := rfl

end Updates

end Sys2Proof.Machine
end

