-- ==== Sys2Proof/Laws/Ops.lean ====
section
/-! SUPPORT. What each shared operation can do, said once: the exception, taking a response, reset, accepting a command, and one
step of the ports. -/

namespace Sys2Proof.Machine

open Sys2Proof

/-- The exception is one response and nothing else (60_exceptions.md R160). -/
theorem raiseIllegalCommand_eq (s : State) : raiseIllegalCommand s = { s with offered := some ⟨.illegal, 0⟩ } := rfl

/-- Taking a response never writes a register and leaves none offered. -/
theorem takeResponse_fields (s : State) :
    (takeResponse s).ss = s.ss ∧ (takeResponse s).l0 = s.l0 ∧ (takeResponse s).l1 = s.l1 ∧
      (takeResponse s).cnt = s.cnt ∧ (takeResponse s).inputs = s.inputs ∧ (takeResponse s).offered = none := by
  unfold takeResponse
  split <;> simp_all

@[simp] theorem takeResponse_of_some {s : State} {r : Response} (h : s.offered = some r) :
    takeResponse s = { s with offered := none, taken := s.taken ++ [r] } := by
  simp [takeResponse, h]

@[simp] theorem takeResponse_of_none {s : State} (h : s.offered = none) : takeResponse s = s := by
  simp [takeResponse, h]

/-- Reset under REF leaves the state of `State.reset`, but for the environment's own fields. -/
theorem resetBlock_ref (s : State) :
    resetBlock refConfig s = { State.reset with inputs := s.inputs, taken := s.taken } := rfl

/-- An accepted command is executed or raises the exception, as the decoder says (R164). -/
theorem acceptCommand_cases (run : Instr → State → Host.Outcome State Fault Refusal) (c : Command) (s : State) :
    (∃ i, decode c = .ok i ∧ acceptCommand run c s = run i s) ∨
      (∃ g, decode c = .error g ∧ acceptCommand run c s = .next (raiseIllegalCommand s)) := by
  unfold acceptCommand
  split
  · exact .inl ⟨_, ‹_›, rfl⟩
  · exact .inr ⟨_, ‹_›, rfl⟩

/-- Everything a moment of the ports can be: a reset, a response taken or held, a command accepted, or nothing (20_memory.md
R50, 70_reset_and_hazards.md R181). -/
theorem portMoment_cases (cfg : Config) (run : Instr → State → Host.Outcome State Fault Refusal) (p : PortIn) (s : State) :
    (p.rst = true ∧ portMoment cfg run p s = .next (resetBlock cfg s)) ∨
    (p.rst = false ∧ s.offered.isSome = true ∧
      portMoment cfg run p s = .next (if p.rspReady then takeResponse s else s)) ∨
    (p.rst = false ∧ s.offered = none ∧ p.cmdValid = true ∧
      portMoment cfg run p s = acceptCommand run { cmd := p.cmd, wdata := p.wdata } s) ∨
    (p.rst = false ∧ s.offered = none ∧ p.cmdValid = false ∧ portMoment cfg run p s = .next s) := by
  unfold portMoment
  cases p.rst <;> cases s.offered <;> cases p.cmdValid <;> simp

/-- A step sees the next moment, or there is none. -/
theorem portStep_cases (cfg : Config) (run : Instr → State → Host.Outcome State Fault Refusal) (s : State) :
    (s.inputs = [] ∧ portStep cfg run s = .next s) ∨
      ∃ p rest, s.inputs = p :: rest ∧ portStep cfg run s = portMoment cfg run p { s with inputs := rest } := by
  unfold portStep
  split
  · exact .inl ⟨‹_›, rfl⟩
  · exact .inr ⟨_, _, ‹_›, rfl⟩

/-- The step of the machine, where a moment is to come. -/
theorem step_of_cons {s : State} {p : PortIn} {rest : List PortIn} (h : s.inputs = p :: rest) :
    step s = portMoment refConfig exec p { s with inputs := rest } := by
  simp [step, portStep, h]

end Sys2Proof.Machine
end

