-- ==== Sys2Proof/Laws/PerInstr.lean ====
section
/-! SUPPORT. The statements made per instruction: every instruction's command word lies in its row of opcode_table.json. -/

namespace Sys2Proof.Laws.CommandWordInTable

open Sys2Proof

/-- The mask and the match of the instruction's row in opcode_table.json. -/
def tableRow : Instr → CommandWord × CommandWord
  | .ssSeed _ => (0xFF, 0x20)
  | .ssNext => (0xFF, 0x40)
  | .ssDiscard _ => (0xFF, 0x60)
  | .hInit _ => (0xFF, 0x80)
  | .hAbsorb _ _ => (0xE0, 0xA0)
  | .hFinal => (0xFF, 0xC0)

/-- The encoder's command word matches the instruction's row. -/
def Statement (i : Instr) : Prop := (encode i).cmd &&& (tableRow i).1 = (tableRow i).2

theorem ssSeed (v : Word) : Statement (.ssSeed v) := by simp [Statement, encode, tableRow]

theorem ssNext : Statement .ssNext := by simp [Statement, encode, tableRow]

theorem ssDiscard (n : Word) : Statement (.ssDiscard n) := by simp [Statement, encode, tableRow]

theorem hInit (v : Word) : Statement (.hInit v) := by simp [Statement, encode, tableRow]

theorem hAbsorb (len : Len) (wdata : Operand) : Statement (.hAbsorb len wdata) := by
  simp only [Statement, encode, tableRow]
  revert len; decide

theorem hFinal : Statement .hFinal := by simp [Statement, encode, tableRow]

end Sys2Proof.Laws.CommandWordInTable
end

