-- ==== Sys2Proof/Laws/Perform.lean ====
section
/-! SUPPORT. What an instruction can do in any build: it always gives a next state with one response, and touches none of the
environment's fields; and `exec` is that effect under REF. -/

namespace Sys2Proof.Machine

open Sys2Proof

/-- `H.ABSORB`, its three forms (42_hasher.md R114, R118). -/
theorem hAbsorbOn_cases (cfg : Config) (len : Len) (wdata : Operand) (s : State) :
    (16 < len.toNat ∧ hAbsorbOn cfg len wdata s = raiseIllegalCommand s) ∨
    (len = 0 ∧ hAbsorbOn cfg len wdata s = s.respond .ok 0) ∨
    (len ≠ 0 ∧ len.toNat ≤ 16 ∧ hAbsorbOn cfg len wdata s = (absorbBlock cfg len wdata s).respond .ok 0) := by
  unfold hAbsorbOn
  split
  · exact .inl ⟨‹_›, rfl⟩
  · split
    · exact .inr (.inl ⟨‹_›, rfl⟩)
    · exact .inr (.inr ⟨‹_›, by omega, rfl⟩)

/-- An effect leaves the registers of the environment alone and offers one response. -/
theorem perform_port (cfg : Config) (i : Instr) (s : State) :
    (perform cfg i s).inputs = s.inputs ∧ (perform cfg i s).taken = s.taken ∧
      ∃ r, (perform cfg i s).offered = some r := by
  cases i with
  | hAbsorb len wdata =>
    rcases hAbsorbOn_cases cfg len wdata s with ⟨_, h⟩ | ⟨_, h⟩ | ⟨_, _, h⟩ <;>
      simp [perform, h, raiseIllegalCommand, absorbBlock]
  | _ => simp [perform, ssSeedOn, ssNextOn, ssDiscardOn, hInitOn, hFinalOn]

/-- A command, legal or not, does the same to the ports. -/
theorem performCommand_port (cfg : Config) (c : Command) (s : State) :
    (performCommand cfg c s).inputs = s.inputs ∧ (performCommand cfg c s).taken = s.taken ∧
      ∃ r, (performCommand cfg c s).offered = some r := by
  unfold performCommand
  split
  · exact perform_port cfg _ s
  · simp [raiseIllegalCommand]

/-- The meaning of an instruction is its effect under REF. -/
theorem exec_eq_next_perform (i : Instr) (s : State) : exec i s = .next (perform refConfig i s) := by
  cases i <;> rfl

end Sys2Proof.Machine
end

