-- ==== Sys2Proof/Laws/Sequences.lean ====
section
/-! SUPPORT. Transactions and sequences of them: what one leaves, and how sequences are put together. -/

namespace Sys2Proof.Machine

open Sys2Proof

/-- A transaction: its response joins those taken, none is left offered, and the registers are those the command left. -/
theorem issue_fields (cfg : Config) (c : Command) (s : State) :
    (issue cfg c s).1 =
      { performCommand cfg c s with offered := none, taken := s.taken ++ [(issue cfg c s).2] } := by
  obtain ⟨_, ht, r, hr⟩ := performCommand_port cfg c s
  simp [issue, takeResponse, hr, ht]

theorem issue_response {cfg : Config} {c : Command} {s : State} {r : Response}
    (h : (performCommand cfg c s).offered = some r) : (issue cfg c s).2 = r := by
  simp [issue, h]

@[simp] theorem issueAll_nil (cfg : Config) (s : State) : issueAll cfg [] s = s := rfl

@[simp] theorem issueAll_cons (cfg : Config) (c : Command) (cs : List Command) (s : State) :
    issueAll cfg (c :: cs) s = issueAll cfg cs (issue cfg c s).1 := rfl

@[simp] theorem issueAll_append (cfg : Config) (cs ds : List Command) (s : State) :
    issueAll cfg (cs ++ ds) s = issueAll cfg ds (issueAll cfg cs s) := by
  simp [issueAll, List.foldl_append]

@[simp] theorem insertCommands_nil : insertCommands [] = [] := rfl

end Sys2Proof.Machine
end

