-- ==== Sys2Proof/Tests/Slice0.lean ====
section
/-! SUPPORT. The model's own tests. Every expected value is from 95_test_vectors.md or from the rule the comment names. Then,
for each statement with hypotheses, a witness that meets them all together. -/

namespace Sys2Proof.Tests

open Sys2Proof Sys2Proof.Machine

/-- The state RESET with given registers. -/
def regs (ss l0 l1 cnt : Word) : State := { State.reset with ss := ss, l0 := l0, l1 := l1, cnt := cnt }

/-- The state that an outcome goes on to, `State.reset` where there is none. -/
def nextOf : Host.Outcome State Fault Refusal → State
  | .next t => t
  | .fault _ => State.reset
  | .refused _ => State.reset

/-- The registers that an outcome leaves. -/
def after (o : Host.Outcome State Fault Refusal) : Word × Word × Word × Word := (nextOf o).registers

/-- The response that an outcome offers. -/
def answer (o : Host.Outcome State Fault Refusal) : Option Response := (nextOf o).offered

/-- The ASCII bytes of "hello world" (R16). -/
def helloWorld : List Byte := [0x68, 0x65, 0x6C, 0x6C, 0x6F, 0x20, 0x77, 0x6F, 0x72, 0x6C, 0x64]

/-! ## Well-formedness: the one check refuses -/

theorem test_wellFormed_refuses_len_17 : (Instr.hAbsorb 17 0).wellFormed = false := by decide
theorem test_wellFormed_admits_len_16 : (Instr.hAbsorb 16 0).wellFormed = true := by decide

/-! ## Decoding: words written out bit by bit from R60 to R65, V60 to V69 -/

theorem test_decode_ssSeed : decode ⟨0b00100000, 0x3039⟩ = .ok (.ssSeed 12345) := by decide
theorem test_decode_ssNext : decode ⟨0b01000000, 0⟩ = .ok .ssNext := by decide
theorem test_decode_ssDiscard : decode ⟨0b01100000, 5⟩ = .ok (.ssDiscard 5) := by decide
theorem test_decode_hInit : decode ⟨0b10000000, 0x3039⟩ = .ok (.hInit 12345) := by decide
theorem test_decode_hAbsorb : decode ⟨0b10101011, 0x0000000000646C726F77206F6C6C6568⟩ =
    .ok (.hAbsorb 11 0x0000000000646C726F77206F6C6C6568) := by decide
theorem test_decode_hFinal : decode ⟨0b11000000, 0x1234⟩ = .ok .hFinal := by decide
theorem test_decode_reserved_op : decode ⟨0x00, 0⟩ = .error .op ∧ decode ⟨0xFF, 0⟩ = .error .op := by decide
theorem test_decode_reserved_arg : decode ⟨0x41, 0⟩ = .error .arg ∧ decode ⟨0xDF, 0⟩ = .error .arg := by decide
theorem test_decode_reserved_len : decode ⟨0xB1, 0⟩ = .error .len ∧ decode ⟨0xBF, 0⟩ = .error .len := by decide
theorem test_decodeTableWord_hAbsorb : decodeTableWord 8 0xA3 = some (.hAbsorb 3 0) := by decide
/-- R67: `H.ABSORB 3, 61 62 63`. -/
theorem test_listing : (encode (absorbBytes [0x61, 0x62, 0x63])).listing =
    "A3:00000000000000000000000000636261".toList := by decide

/-! ## One step on small states -/

/-- R83. -/
theorem test_ssSeed : after (exec (.ssSeed 0x3039) (regs 7 1 2 3)) = (0x3039, 1, 2, 3) := by decide
/-- V6: the add wraps. -/
theorem test_ssNext_wraps : (after (exec .ssNext (regs 0xFFFFFFFFFFFFFFFF 0 0 0))).1 = 0x9E3779B97F4A7C14 ∧
    answer (exec .ssNext (regs 0xFFFFFFFFFFFFFFFF 0 0 0)) = some ⟨.ok, 0xE4D971771B652C20⟩ := by decide
/-- V7: the draw is 0. -/
theorem test_ssNext_zero_draw : answer (exec .ssNext (regs 0x61C8864680B583EB 0 0 0)) = some ⟨.ok, 0⟩ := by decide
/-- V8. -/
theorem test_ssDiscard_five : (after (exec (.ssDiscard 5) (regs 0 0 0 0))).1 = 0x1715609F7C746C69 := by decide
/-- V11. -/
theorem test_ssDiscard_back : (after (exec (.ssDiscard 0xFFFFFFFFFFFFFFFF) (regs 7 0 0 0))).1 = 0x61C8864680B583F2 := by
  decide
/-- V31. -/
theorem test_hInit : after (exec (.hInit 0x3039) (regs 9 1 2 3)) = (9, 0x22118258A9D111A0, 0x346EDCE5F713F8ED, 0) := by
  decide
/-- V36: the junk above `LEN` is ignored. -/
theorem test_hAbsorb_pads : after (exec (.hAbsorb 3 0x0000000000000000FFFFFFFFFF636261) State.reset) =
    (0, 0x27BB06F1DE76F1DE, 0xB72FEBB949E549F7, 3) := by decide
/-- V39a: the counter wraps. -/
theorem test_hAbsorb_counter_wraps : (after (exec (.hAbsorb 16 0) (regs 0 0 0 0xFFFFFFFFFFFFFFFF))).2.2.2 = 15 := by decide
/-- V57. -/
theorem test_hFinal : answer (exec .hFinal (regs 0 0x6759529FC53BA61D 0x493E2B40284B5763 11)) =
    some ⟨.ok, 0x1FC462732694332B⟩ := by decide
/-- V59, through the step: the first command after reset. -/
theorem test_step_hFinal_after_reset : answer (step (State.reset.withFetchWord 8 0xC0)) = some ⟨.ok, 0xEEC9CEEFBA1CFDC5⟩ := by
  decide
/-- P4: an illegal word at the port. -/
theorem test_step_illegal : answer (step (State.reset.withFetchWord 8 0xB1)) = some ⟨.illegal, 0⟩ ∧
    after (step (State.reset.withFetchWord 8 0xB1)) = State.reset.registers := by decide

/-! ## Functions -/

/-- V24. -/
theorem test_compress : compress refConfig 0xFFFFFFFFFFFFFFFF 0xFFFFFFFFFFFFFFFF = 0xCBF0579E126BF4DC := by decide
/-- V29. -/
theorem test_wmul : wmul 0xFFFFFFFFFFFFFFFF 0xFFFFFFFFFFFFFFFF = (0xFFFFFFFFFFFFFFFE, 1) ∧
    wmulByParts 0xFFFFFFFFFFFFFFFF 0xFFFFFFFFFFFFFFFF = (0xFFFFFFFFFFFFFFFE, 1) := by decide
/-- V53. -/
theorem test_avalanche : refAvalanche 0xFFFFFFFFFFFFFFFF 0xFFFFFFFFFFFFFFFF = 0xBA9E14E6D42A95BA := by decide
/-- V39b: word assembly of a big-endian build. -/
theorem test_blockWords_big : blockWords .big 11 (packBytes helloWorld) = (0x68656C6C6F20776F, 0x726C640000000000) := by
  decide
/-- V33. -/
theorem test_blockWords_little : blockWords .little 11 (packBytes helloWorld) = (0x6F77206F6C6C6568, 0x0000000000646C72) := by
  decide
/-- R141: the 33 bytes give blocks of 16, 16 and 1. -/
theorem test_insert_lengths : (insertCommands (List.replicate 33 0)).map (·.cmd) = [0xB0, 0xB0, 0xA1] := by decide

/-! ## Witnesses: states and operands that meet the hypotheses of a statement, all together -/

/-- A moment with a command and every other port low, from its bits. -/
def present (cmd : CommandWord) : PortIn := presentMoment ⟨cmd, 0⟩

/-- RESET with given moments to come and a response offered or not. -/
def waiting (offered : Option Response) (inputs : List PortIn) : State :=
  { State.reset with offered := offered, inputs := inputs }

theorem witness_DecodeOfEncode : (Instr.hAbsorb 16 0).wellFormed = true := by decide
theorem witness_EncodeOfDecode : decode ⟨0xB0, 1⟩ = .ok (.hAbsorb 16 1) := by decide
theorem witness_ReservedWordsByGroup : decode ⟨0xB1, 0⟩ = .error .len ∧ decode ⟨0x21, 0⟩ = .error .arg ∧
    decode ⟨0x1F, 0⟩ = .error .op ∧ decode ⟨0xE0, 0⟩ = .error .op := by decide
/-- Format S. -/
theorem witness_IgnoredOperandBits_scalar : agreeOnUsedBits 0x20 ((5 : Word) ++ (7 : Word)) ((6 : Word) ++ (7 : Word)) := by
  unfold agreeOnUsedBits; decide
/-- Format B, byte 1 differs and is above `LEN` = 1. -/
theorem witness_IgnoredOperandBits_block : agreeOnUsedBits 0xA1 0xFF61 0x0061 := by unfold agreeOnUsedBits; decide
/-- Format N. -/
theorem witness_IgnoredOperandBits_none : agreeOnUsedBits 0xC0 0 1 := by unfold agreeOnUsedBits; decide
/-- Reserved words, the first and last of `LEN` above 16 among them. -/
theorem witness_IgnoredOperandBits_reserved : agreeOnUsedBits 0xB1 0 1 ∧ agreeOnUsedBits 0xBF 0 1 ∧ agreeOnUsedBits 0x00 0 1 := by
  unfold agreeOnUsedBits; decide
theorem witness_StepRunsDecodedInstruction :
    let s := waiting none [present 0xC0]
    s.inputs = present 0xC0 :: [] ∧ (present 0xC0).rst = false ∧ s.offered = none ∧ (present 0xC0).cmdValid = true ∧
      decode ⟨(present 0xC0).cmd, (present 0xC0).wdata⟩ = .ok .hFinal := by decide
theorem witness_ReservedWordAnswersIllegal :
    let s := waiting none [present 0xB1]
    s.inputs = present 0xB1 :: [] ∧ (present 0xB1).rst = false ∧ s.offered = none ∧ (present 0xB1).cmdValid = true ∧
      legalWord (present 0xB1).cmd = false := by decide
/-- Both clauses: the last legal word and the first reserved one after it. -/
theorem witness_EveryCommandAnswersOnce :
    let s := waiting none [present 0xB0]
    s.inputs = present 0xB0 :: [] ∧ (present 0xB0).rst = false ∧ s.offered = none ∧ (present 0xB0).cmdValid = true ∧
      legalWord 0xB0 = true ∧ legalWord 0xB1 = false := by decide
theorem witness_ResponseHeldUntilTaken :
    let s := waiting (some ⟨.ok, 5⟩) [takeMoment]
    s.inputs = takeMoment :: [] ∧ takeMoment.rst = false ∧ s.offered = some ⟨.ok, 5⟩ ∧ takeMoment.rspReady = true ∧
      (present 0xC0).rspReady = false := by decide
theorem witness_NeglectedResponseHangs :
    let s := waiting (some ⟨.ok, 5⟩) [present 0xC0, present 0x40]
    s.offered.isSome = true ∧ ∀ p ∈ s.inputs, p.neglects = true := by decide
theorem witness_IdleStepChangesNothing :
    State.reset.inputs = [] ∧ (waiting none [takeMoment]).inputs = takeMoment :: [] ∧ takeMoment.rst = false ∧
      takeMoment.cmdValid = false ∧ (waiting none [takeMoment]).offered = none := by decide
theorem witness_ResetWinsFromEveryState :
    (waiting (some ⟨.ok, 5⟩) [resetMoment]).inputs = resetMoment :: [] ∧ resetMoment.rst = true := by decide
theorem witness_ResetAbandonsAcceptedCommand :
    let s := waiting none [present 0x40, resetMoment]
    s.inputs = present 0x40 :: resetMoment :: [] ∧ (present 0x40).rst = false ∧ s.offered = none ∧
      (present 0x40).cmdValid = true ∧ resetMoment.rst = true := by decide
theorem witness_StepKeepsResponsesProper :
    ∃ t, ResponsesProper (waiting none [present 0xB1]) ∧ step (waiting none [present 0xB1]) = .next t :=
  ⟨_, ⟨by simp [waiting], by simp [waiting, State.reset]⟩, rfl⟩
theorem witness_PortsRefineTransactions :
    (waiting none [presentMoment ⟨0x40, 0⟩, takeMoment]).offered = none ∧
      (waiting none [presentMoment ⟨0x40, 0⟩, takeMoment]).inputs =
        [(⟨0x40, 0⟩ : Command)].flatMap (fun c => [presentMoment c, takeMoment]) ++ [] := by decide
theorem witness_IllegalCommandIsPrecise : legalWord 0x00 = false := by decide
theorem witness_FaultedRunsHaveIllegalWord : State.reset.offered = none := by decide
theorem witness_EveryInstructionCompletes : (Instr.hAbsorb 0 0).wellFormed = true ∧ Instr.hFinal.wellFormed = true := by decide
/-- Both ends of the range of `LEN`, and the first length above it. -/
theorem witness_EffectsInEveryBuild : 1 ≤ (1 : Len).toNat ∧ (1 : Len).toNat ≤ 16 ∧ 1 ≤ (16 : Len).toNat ∧
    (16 : Len).toNat ≤ 16 ∧ 16 < (17 : Len).toNat := by decide
/-- Both values of `FINAL_MUTATES`. -/
theorem witness_EffectsInEveryBuild_final : refConfig.finalMutates = none ∧
    ({ refConfig with finalMutates := some Prod.swap } : Config).finalMutates = some Prod.swap := ⟨rfl, rfl⟩
theorem witness_HFinalReturnsDigest :
    (1 : Word) + 2 = 3 + 0 ∧ (regs 0 0x2492D73057315D9F 0 0).l0 + (regs 0 0x2492D73057315D9F 0 0).l1 = 0x2492D73057315D9F ∧
      (regs 0 0x2492D73057315D9F 0 0).cnt = 0 := by decide
theorem witness_FinalizationOnlyReads : refConfig.finalMutates = none := rfl
theorem witness_UnitsDoNotAlias : onGenerator .ssNext = true ∧ onGenerator (.hInit 0) = false ∧ onGenerator .hFinal = false := by
  decide
theorem witness_GeneratorIsolation : (regs 5 0 0 0).ss = (regs 5 1 2 3).ss := by decide
theorem witness_HasherIsolation : (regs 5 1 2 3).hasher = (regs 6 1 2 3).hasher := by decide
theorem witness_LanesAreIndependent :
    (regs 0 1 2 0).l0 = (regs 0 1 3 0).l0 ∧ (∀ i < 8, operandByte 0x5 i = operandByte ((9 : Word) ++ (5 : Word)) i) ∧
      (regs 0 1 2 0).l1 = (regs 0 3 2 0).l1 ∧
      ∀ i < 8, operandByte ((9 : Word) ++ (5 : Word)) (8 + i) = operandByte ((9 : Word) ++ (6 : Word)) (8 + i) := by decide

/-- A configuration whose validity is plain: the counter itself is the digest. -/
def plainConfig : Config where
  inc := 1
  mix := id
  c1 := 1
  c2 := 0
  laneInit := fun v => (v, v)
  avalanche := fun _ cnt => cnt
  byteOrder := .little
  finalMutates := none
  latency := fun _ => 1

theorem plainConfig_valid : plainConfig.Valid where
  inc_odd := by decide
  c1_odd := by decide
  avalanche_injective := fun _ _ _ h => h
  latency_pos := fun _ => Nat.le_refl 1

theorem witness_IdempotentCommands : plainConfig.Valid ∧ plainConfig.finalMutates = none ∧ (1 : Word) ≠ 0 ∧
    1 ≤ (16 : Len).toNat ∧ (16 : Len).toNat ≤ 16 := ⟨plainConfig_valid, rfl, by decide, by decide, by decide⟩
theorem witness_GeneratorHasFullPeriod : plainConfig.Valid := plainConfig_valid
theorem witness_CompressDependsOnSum : (1 : Word) + 2 = 0 + 3 := by decide
theorem witness_CompressCornerValues :
    (0xFFFFFFFFFFFFFFFF : Word) + 1 = 0 ∧ ((0x2492D73057315D9F : Word) + 0) * refConfig.c1 = refConfig.c2 ∧
      (0x2492D73057315D9F : Word) + 0 = 0x2492D73057315D9F ∧ plainConfig.Valid :=
  ⟨by decide, by decide, by decide, plainConfig_valid⟩
theorem witness_CounterLaw : ∀ c ∈ [(⟨0xA3, 0⟩ : Command)], ∀ v : Word, decode c ≠ .ok (.hInit v) := by
  have h : decode ⟨0xA3, 0⟩ = .ok (.hAbsorb 3 0) := by decide
  intro c hc v
  rw [List.mem_singleton.mp hc, h]
  simp
theorem witness_ExchangedLanesGiveSameDigest :
    (regs 0 2 1 3).l0 = (regs 0 1 2 3).l1 ∧ (regs 0 2 1 3).l1 = (regs 0 1 2 3).l0 ∧ (regs 0 2 1 3).cnt = (regs 0 1 2 3).cnt := by
  decide
/-- The last block filled to its end. -/
theorem witness_TrailingZeroBytesChangeDigest :
    plainConfig.Valid ∧ (1 : Word) ≠ 2 ∧ helloWorld.length % 16 ≠ 0 ∧ 1 ≤ 5 ∧ helloWorld.length % 16 + 5 ≤ 16 :=
  ⟨plainConfig_valid, by decide, by decide, by decide, by decide⟩
theorem witness_ExtendedOutputWordByWord : ([] : List Word).length = 0 ∧ 1 ≤ [(0 : Word)].length := by decide
/-- The first word that follows another. -/
theorem witness_ChainedOutput : 1 ≤ [(0 : Word)].length := by decide
theorem witness_HashIsDeterministic : 16 ∣ (List.replicate 16 (0 : Byte)).length := by decide

end Sys2Proof.Tests
end

section
/-! SUPPORT. The facts that the statements of 00_scope.md need: which words the decoder accepts, the effect of each
instruction written out, a command and a response at the ports, and the two bijections behind the REF avalanche. -/

namespace Sys2Proof.Machine

open Sys2Proof

/-! ## The decoder and the legal words -/

/-- The hexadecimal list of legal words (30_encoding.md R63), read off the two fields as the decoder reads them (R64). -/
theorem legalWord_eq_decide_fields (cmd : CommandWord) :
    legalWord cmd = decide (opField cmd = 1#3 ∧ argField cmd = 0 ∨ opField cmd = 2#3 ∧ argField cmd = 0 ∨
      opField cmd = 3#3 ∧ argField cmd = 0 ∨ opField cmd = 4#3 ∧ argField cmd = 0 ∨
      opField cmd = 5#3 ∧ (argField cmd).toNat ≤ 16 ∨ opField cmd = 6#3 ∧ argField cmd = 0) := by
  revert cmd; decide

/-- The decoder accepts exactly the legal words, whatever the operand. -/
theorem decode_isOk (c : Command) : (decode c).isOk = legalWord c.cmd := by
  rw [legalWord_eq_decide_fields]
  simp only [decode]
  split_ifs <;> simp_all [Except.isOk, Except.toBool]

theorem legalWord_of_decode_ok {c : Command} {i : Instr} (h : decode c = .ok i) : legalWord c.cmd = true := by
  rw [← decode_isOk, h]; rfl

theorem not_legalWord_of_decode_error {c : Command} {g : Reserved} (h : decode c = .error g) :
    legalWord c.cmd = false := by
  rw [← decode_isOk, h]; rfl

/-- What the decoder accepts is well formed: its bound on `LEN` is the check's (R62). -/
theorem wellFormed_of_decode_ok {c : Command} {i : Instr} (h : decode c = .ok i) : i.wellFormed = true := by
  simp only [decode] at h
  split_ifs at h <;> cases h <;> simp_all [Instr.wellFormed]

/-! ## The effect of each instruction, written out -/

section Effects

variable (cfg : Config) (s : State)

theorem perform_ssSeed (v : Word) : perform cfg (.ssSeed v) s = { s with ss := v, offered := some ⟨.ok, 0⟩ } := rfl

theorem perform_ssNext : perform cfg .ssNext s =
    { s with ss := s.ss + cfg.inc, offered := some ⟨.ok, cfg.mix (s.ss + cfg.inc)⟩ } := rfl

theorem perform_ssDiscard (n : Word) : perform cfg (.ssDiscard n) s =
    { s with ss := s.ss + n * cfg.inc, offered := some ⟨.ok, 0⟩ } := rfl

theorem perform_hInit (v : Word) : perform cfg (.hInit v) s =
    { s with l0 := (cfg.laneInit v).1, l1 := (cfg.laneInit v).2, cnt := 0, offered := some ⟨.ok, 0⟩ } := rfl

theorem perform_hAbsorb_zero (w : Operand) : perform cfg (.hAbsorb 0 w) s = { s with offered := some ⟨.ok, 0⟩ } := rfl

variable {cfg s}

theorem perform_hAbsorb_of_pos {len : Len} (w : Operand) (hpos : 1 ≤ len.toNat) (hle : len.toNat ≤ 16) :
    perform cfg (.hAbsorb len w) s =
      { s with l0 := compress cfg s.l0 (blockWords cfg.byteOrder len.toNat w).1,
               l1 := compress cfg s.l1 (blockWords cfg.byteOrder len.toNat w).2,
               cnt := s.cnt + BitVec.ofNat 64 len.toNat, offered := some ⟨.ok, 0⟩ } := by
  have hne : len ≠ 0 := by rintro rfl; simp at hpos
  rcases hAbsorbOn_cases cfg len w s with ⟨hgt, -⟩ | ⟨h0, -⟩ | ⟨-, -, h⟩
  · omega
  · exact absurd h0 hne
  · rw [BitVec.ofNat_toNat]
    exact h

theorem perform_hAbsorb_of_gt {len : Len} (w : Operand) (hgt : 16 < len.toNat) :
    perform cfg (.hAbsorb len w) s = { s with offered := some ⟨.illegal, 0⟩ } :=
  if_pos hgt

theorem perform_hFinal_of_none (h : cfg.finalMutates = none) : perform cfg .hFinal s =
    { s with offered := some ⟨.ok, cfg.avalanche (compress cfg s.l0 s.l1) s.cnt⟩ } := by
  simp [perform, hFinalOn, lanesAfterFinal, h, digest, State.setLanes, State.respond]

theorem perform_hFinal_of_some {f : Word × Word → Word × Word} (h : cfg.finalMutates = some f) :
    perform cfg .hFinal s =
      { s with l0 := (f (s.l0, s.l1)).1, l1 := (f (s.l0, s.l1)).2,
               offered := some ⟨.ok, cfg.avalanche (compress cfg s.l0 s.l1) s.cnt⟩ } := by
  simp [perform, hFinalOn, lanesAfterFinal, h, digest, State.setLanes, State.respond]

/-- A well-formed instruction answers `OK` in every build (00_scope.md R8): the one exception is `LEN` above 16. -/
theorem perform_offers_ok {i : Instr} (hi : i.wellFormed = true) :
    ∃ d, (perform cfg i s).offered = some ⟨.ok, d⟩ := by
  cases i with
  | hAbsorb len w =>
    have hle : len.toNat ≤ 16 := of_decide_eq_true hi
    rcases hAbsorbOn_cases cfg len w s with ⟨hgt, -⟩ | ⟨-, h⟩ | ⟨-, -, h⟩
    · omega
    all_goals exact ⟨0, by simp [perform, h]⟩
  | _ => exact ⟨_, rfl⟩

end Effects

/-! ## A command -/

section Commands

variable (cfg : Config) (c : Command) (s : State)

theorem performCommand_of_ok {cfg : Config} {c : Command} {s : State} {i : Instr} (h : decode c = .ok i) :
    performCommand cfg c s = perform cfg i s := by
  simp [performCommand, h]

theorem performCommand_of_error {cfg : Config} {c : Command} {s : State} {g : Reserved} (h : decode c = .error g) :
    performCommand cfg c s = raiseIllegalCommand s := by
  simp [performCommand, h]

/-- A legal word answers `OK` (00_scope.md R8). -/
theorem performCommand_offers_ok {c : Command} (h : legalWord c.cmd = true) :
    ∃ d, (performCommand cfg c s).offered = some ⟨.ok, d⟩ := by
  cases hd : decode c with
  | ok i =>
    rw [performCommand_of_ok hd]
    exact perform_offers_ok (wellFormed_of_decode_ok hd)
  | error g => simp [not_legalWord_of_decode_error hd] at h

/-- Any other word raises the exception (60_exceptions.md R160). -/
theorem performCommand_of_not_legalWord {c : Command} (h : legalWord c.cmd = false) :
    performCommand cfg c s = raiseIllegalCommand s := by
  cases hd : decode c with
  | ok i => simp [legalWord_of_decode_ok hd] at h
  | error g => exact performCommand_of_error hd

/-- No instruction looks at the moments of the ports to come. -/
theorem perform_withInputs (i : Instr) (is : List PortIn) :
    perform cfg i { s with inputs := is } = { perform cfg i s with inputs := is } := by
  cases i with
  | hAbsorb len w =>
    simp only [perform, hAbsorbOn]
    split_ifs <;> rfl
  | _ => rfl

theorem performCommand_withInputs (is : List PortIn) :
    performCommand cfg c { s with inputs := is } = { performCommand cfg c s with inputs := is } := by
  cases hd : decode c with
  | ok i => simp only [performCommand_of_ok hd, perform_withInputs]
  | error g => simp only [performCommand_of_error hd, raiseIllegalCommand_eq]

theorem issue_withInputs (is : List PortIn) :
    (issue cfg c { s with inputs := is }).1 = { (issue cfg c s).1 with inputs := is } := by
  obtain ⟨-, -, r, hr⟩ := performCommand_port cfg c s
  simp [issue, performCommand_withInputs, takeResponse, hr]

end Commands

/-! ## One moment of the ports -/

/-- Accepting a command never stops, and has the command's effect under REF. -/
theorem acceptCommand_exec (c : Command) (s : State) :
    acceptCommand exec c s = .next (performCommand refConfig c s) := by
  rcases acceptCommand_cases exec c s with ⟨i, hd, h⟩ | ⟨g, hd, h⟩
  · rw [h, performCommand_of_ok hd, exec_eq_next_perform]
  · rw [h, performCommand_of_error hd]

section Moments

variable {s : State} {p : PortIn} {rest : List PortIn}

/-- A step in which the block accepts the command at its ports (20_memory.md R47). -/
theorem step_of_command (hin : s.inputs = p :: rest) (hrst : p.rst = false) (hoff : s.offered = none)
    (hvalid : p.cmdValid = true) :
    step s = acceptCommand exec ⟨p.cmd, p.wdata⟩ { s with inputs := rest } := by
  simp [step_of_cons hin, portMoment, hrst, hoff, hvalid]

/-- A step in which the host takes the response (20_memory.md R50). -/
theorem step_of_taken {r : Response} (hin : s.inputs = p :: rest) (hrst : p.rst = false) (hoff : s.offered = some r)
    (hready : p.rspReady = true) : step s = .next (takeResponse { s with inputs := rest }) := by
  simp [step_of_cons hin, portMoment, hrst, hoff, hready]

/-- Presenting a command and taking its response is one transaction (20_memory.md R47). -/
theorem run_present_take {c : Command} (k : Nat) (hoff : s.offered = none)
    (hin : s.inputs = presentMoment c :: takeMoment :: rest) :
    Host.Core.run Sys2Proof.core (k + 2) s =
      Host.Core.run Sys2Proof.core k (issue refConfig c { s with inputs := rest }).1 := by
  obtain ⟨hnext, -, r, hr⟩ := performCommand_port refConfig c { s with inputs := takeMoment :: rest }
  have hpresent : Sys2Proof.core.step s =
      .next (performCommand refConfig c { s with inputs := takeMoment :: rest }) :=
    (step_of_command hin rfl hoff rfl).trans (acceptCommand_exec c _)
  have htake : Sys2Proof.core.step (performCommand refConfig c { s with inputs := takeMoment :: rest }) =
      .next (issue refConfig c { s with inputs := rest }).1 := by
    refine (step_of_taken hnext rfl hr rfl).trans ?_
    rw [← performCommand_withInputs]
    rfl
  simp only [Host.Core.run, hpresent, htake]

end Moments

/-! ## The bijections behind the REF avalanche -/

/-- Xoring a word with itself shifted right loses nothing: the bits come back from the top down. -/
theorem xor_ushiftRight_injective {w k : Nat} (hk : 0 < k) :
    Function.Injective fun x : BitVec w => x ^^^ (x >>> k) := by
  intro x y h
  have hbit (i : Nat) : (x.getLsbD i ^^ x.getLsbD (k + i)) = (y.getLsbD i ^^ y.getLsbD (k + i)) := by
    simpa using congrArg (·.getLsbD i) h
  have hall (n : Nat) : ∀ i, w ≤ i + n → x.getLsbD i = y.getLsbD i := by
    induction n with
    | zero => intro i hi; rw [BitVec.getLsbD_of_ge x i hi, BitVec.getLsbD_of_ge y i hi]
    | succ n ih =>
      intro i hi
      have habove := ih (k + i) (by omega)
      simpa [habove] using hbit i
  exact BitVec.eq_of_getLsbD_eq fun i _ => hall w i (by omega)

/-- An odd factor is a unit modulo a power of two. -/
theorem mul_odd_injective {w : Nat} {k : BitVec w} (hk : k.toNat % 2 = 1) :
    Function.Injective fun x : BitVec w => x * k := by
  intro x y h
  have hcop : Nat.Coprime (2 ^ w) k.toNat := (Nat.coprime_two_left.mpr (Nat.odd_iff.mpr hk)).pow_left w
  have hmod : x.toNat * k.toNat ≡ y.toNat * k.toNat [MOD 2 ^ w] := by
    simpa [Nat.ModEq] using congrArg BitVec.toNat h
  exact BitVec.eq_of_toNat_eq
    ((Nat.ModEq.cancel_right_of_coprime hcop hmod).eq_of_lt_of_lt x.isLt y.isLt)

/-- The step that takes the counter in, between two multiplies by the odd `K` and before a last shift (43_finalize.md R134). -/
theorem refAvalanche_injective (h : Word) : Function.Injective (refAvalanche h) := by
  intro c c' heq
  have hv4 := xor_ushiftRight_injective (k := 28) (by decide) heq
  have hv3 := mul_odd_injective (k := refK) (by decide) hv4
  exact add_left_cancel (BitVec.xor_right_inj _ |>.mp hv3)

/-! ## The statements -/

/-- Settles O8: an accepted command has its effect under REF, which always offers one response. -/
theorem everyCommandAnswersOnce : Obligations.EveryCommandAnswersOnce := by
  intro s p rest hin hrst hoff hvalid
  obtain ⟨htin, httaken, r, hr⟩ := performCommand_port refConfig ⟨p.cmd, p.wdata⟩ { s with inputs := rest }
  refine ⟨_, r, (step_of_command hin hrst hoff hvalid).trans (acceptCommand_exec _ _), hr, htin, httaken, ?_, ?_⟩
  · intro hlegal
    obtain ⟨d, hd⟩ := performCommand_offers_ok refConfig (c := ⟨p.cmd, p.wdata⟩) { s with inputs := rest } hlegal
    rw [Option.some.inj (hr.symm.trans hd)]
  · intro hillegal
    have hraise := performCommand_of_not_legalWord refConfig (c := ⟨p.cmd, p.wdata⟩) { s with inputs := rest } hillegal
    rw [hraise] at hr ⊢
    exact ⟨(Option.some.inj hr).symm, rfl⟩

/-- Settles O19, by induction on the commands: two steps are one transaction, which leaves the moments to come alone. -/
theorem portsRefineTransactions : Obligations.PortsRefineTransactions := by
  intro cs
  induction cs with
  | nil =>
    intro s rest _ hin
    subst hin
    rfl
  | cons c cs ih =>
    intro s rest hoff hin
    let rest' := cs.flatMap (fun c => [presentMoment c, takeMoment]) ++ rest
    have hissued := issue_fields refConfig c { s with inputs := rest' }
    calc Host.Core.run Sys2Proof.core (2 * (cs.length + 1)) s
        = Host.Core.run Sys2Proof.core (2 * cs.length) (issue refConfig c { s with inputs := rest' }).1 :=
          run_present_take _ hoff hin
      _ = .next (issueAll refConfig cs { (issue refConfig c { s with inputs := rest' }).1 with inputs := rest }) :=
          ih _ rest (by rw [hissued]) (by rw [hissued]; exact (performCommand_port _ _ _).1)
      _ = .next (issueAll refConfig (c :: cs) { s with inputs := rest }) := by
          rw [← issue_withInputs, issueAll_cons]

/-- Settles O54. -/
theorem refMeetsConstraints : Obligations.RefMeetsConstraints where
  inc_odd := by decide
  c1_odd := by decide
  avalanche_injective := refAvalanche_injective
  latency_pos := fun _ => Nat.le_add_right 1 _

/-- Settles O6. -/
theorem stepRunsDecodedInstruction : Obligations.StepRunsDecodedInstruction := by
  intro s p rest i hin hrst hoff hvalid hdec
  rw [step_of_command hin hrst hoff hvalid, acceptCommand, hdec]

/-- Settles O16, over everything that a moment of the ports can be. -/
theorem stepNeverStops : Obligations.StepNeverStops := by
  intro s
  rcases portStep_cases refConfig exec s with ⟨-, h⟩ | ⟨p, rest, -, h⟩
  · exact ⟨_, h⟩
  rcases portMoment_cases refConfig exec p { s with inputs := rest } with
    ⟨-, hm⟩ | ⟨-, -, hm⟩ | ⟨-, -, -, hm⟩ | ⟨-, -, -, hm⟩
  · exact ⟨_, h.trans hm⟩
  · exact ⟨_, h.trans hm⟩
  · exact ⟨_, (h.trans hm).trans (acceptCommand_exec _ _)⟩
  · exact ⟨_, h.trans hm⟩

/-- Settles O20. -/
theorem machineIsBlockAtRef : Obligations.MachineIsBlockAtRef := by
  have hexec : exec = execOn refConfig := funext₂ exec_eq_next_perform
  exact ⟨exec_eq_next_perform, fun s => by rw [step, stepOn, hexec]⟩

/-- Settles O24. -/
theorem everyInstructionCompletes : Obligations.EveryInstructionCompletes := by
  intro i s hi
  obtain ⟨hin, htaken, -⟩ := perform_port refConfig i s
  obtain ⟨d, hd⟩ := perform_offers_ok (cfg := refConfig) (s := s) hi
  exact ⟨_, d, exec_eq_next_perform i s, hd, hin, htaken⟩

/-- Settles O25, one equation per form of an instruction. -/
theorem effectsInEveryBuild : Obligations.EffectsInEveryBuild := fun cfg s =>
  ⟨perform_ssSeed cfg s, perform_ssNext cfg s, perform_ssDiscard cfg s, perform_hInit cfg s,
    fun _ w => perform_hAbsorb_of_pos w, perform_hAbsorb_zero cfg s, fun _ w => perform_hAbsorb_of_gt w,
    perform_hFinal_of_none, fun _ => perform_hFinal_of_some⟩

end Sys2Proof.Machine
end

section
/-! SUPPORT. The facts that the statements of 10_state.md need: an encoded command does what its instruction does, what each
unit's commands write and read, the isolation of one unit from every other command, and the two lanes of a block. -/

namespace Sys2Proof.Machine

open Sys2Proof

/-! ## The command of an instruction -/

/-- The encoding tables, read back by the decoder (30_encoding.md R61, R64). -/
theorem decode_encode {i : Instr} (hi : i.wellFormed = true) : decode (encode i) = .ok i := by
  cases i with
  | hAbsorb len w =>
    have hle : len.toNat ≤ 16 := of_decide_eq_true hi
    simp [decode, encode, hle]
  | _ => simp [decode, encode, opField, argField]

/-- Issuing the command of an instruction has the effect of the instruction. -/
theorem performCommand_encode (cfg : Config) {i : Instr} (hi : i.wellFormed = true) (s : State) :
    performCommand cfg (encode i) s = perform cfg i s :=
  performCommand_of_ok (decode_encode hi)

/-! ## What a transaction leaves in the registers: what the command left, since taking a response writes none -/

section Transactions

variable (cfg : Config) (c : Command) (s : State)

@[simp] theorem issue_ss : (issue cfg c s).1.ss = (performCommand cfg c s).ss := by rw [issue_fields]

@[simp] theorem issue_l0 : (issue cfg c s).1.l0 = (performCommand cfg c s).l0 := by rw [issue_fields]

@[simp] theorem issue_l1 : (issue cfg c s).1.l1 = (performCommand cfg c s).l1 := by rw [issue_fields]

@[simp] theorem issue_cnt : (issue cfg c s).1.cnt = (performCommand cfg c s).cnt := by rw [issue_fields]

@[simp] theorem issue_hasher : (issue cfg c s).1.hasher = (performCommand cfg c s).hasher := by simp [State.hasher]

theorem issue_response_congr {cfg : Config} {c : Command} {s s' : State}
    (h : (performCommand cfg c s).offered = (performCommand cfg c s').offered) :
    (issue cfg c s).2 = (issue cfg c s').2 := by
  simp [issue, h]

end Transactions

/-! ## What the commands of a unit write and read -/

theorem hasher_eq_iff {s s' : State} : s.hasher = s'.hasher ↔ s.l0 = s'.l0 ∧ s.l1 = s'.l1 ∧ s.cnt = s'.cnt := by
  simp [State.hasher]

section Units

variable {cfg : Config} {i : Instr} {s s' : State}

/-- The generator's instructions write no register of the hasher (10_state.md R25). -/
theorem perform_hasher_of_onGenerator (hi : onGenerator i = true) : (perform cfg i s).hasher = s.hasher := by
  cases i with
  | ssSeed v => rfl
  | ssNext => rfl
  | ssDiscard n => rfl
  | _ => cases hi

/-- The hasher's instructions do not write `SS` (10_state.md R25). -/
theorem perform_ss_of_not_onGenerator (hi : onGenerator i = false) : (perform cfg i s).ss = s.ss := by
  cases i with
  | hInit v => rfl
  | hAbsorb len w =>
    rcases hAbsorbOn_cases cfg len w s with ⟨-, h⟩ | ⟨-, h⟩ | ⟨-, -, h⟩ <;>
      simp [perform, h, raiseIllegalCommand, absorbBlock]
  | hFinal => rfl
  | _ => cases hi

/-- What the generator's instructions leave in `SS` and answer is a function of `SS`. -/
theorem perform_congr_of_onGenerator (hi : onGenerator i = true) (h : s.ss = s'.ss) :
    (perform cfg i s).ss = (perform cfg i s').ss ∧ (perform cfg i s).offered = (perform cfg i s').offered := by
  cases i with
  | ssSeed v => exact ⟨rfl, rfl⟩
  | ssNext => simp [perform_ssNext, h]
  | ssDiscard n => simp [perform_ssDiscard, h]
  | _ => cases hi

/-- What the hasher's instructions leave in the lanes and the counter and answer is a function of these. -/
theorem perform_congr_of_not_onGenerator (hi : onGenerator i = false) (h : s.hasher = s'.hasher) :
    (perform cfg i s).hasher = (perform cfg i s').hasher ∧
      (perform cfg i s).offered = (perform cfg i s').offered := by
  obtain ⟨h0, h1, hc⟩ := hasher_eq_iff.mp h
  cases i with
  | hInit v => exact ⟨rfl, rfl⟩
  | hAbsorb len w =>
    simp only [perform, hAbsorbOn]
    split_ifs
    · exact ⟨h, rfl⟩
    · exact ⟨h, rfl⟩
    · simp [State.hasher, absorbBlock, h0, h1, hc]
  | hFinal => simp [perform, hFinalOn, State.hasher, h0, h1, hc]
  | _ => cases hi

/-- Finalization writes the lanes at most (43_finalize.md R132). -/
theorem perform_hFinal_cnt : (perform cfg .hFinal s).cnt = s.cnt := rfl

end Units

/-! ## Isolation -/

/-- The commands that `keep` picks are alone with the registers that `view` reads: no other command changes them, and what
these commands leave there and answer is a function of them. -/
structure Isolated {α : Type} (cfg : Config) (keep : Command → Bool) (view : State → α) : Prop where
  /-- Every other command leaves the registers of the view. -/
  frame : ∀ (c : Command) (s : State), keep c = false → view (issue cfg c s).1 = view s
  /-- A command that is kept takes equal views to equal views. -/
  view_congr : ∀ (c : Command) (s s' : State), keep c = true → view s = view s' →
    view (issue cfg c s).1 = view (issue cfg c s').1
  /-- A command that is kept answers alike where the views are equal. -/
  response_congr : ∀ (c : Command) (s s' : State), keep c = true → view s = view s' →
    (issue cfg c s).2 = (issue cfg c s').2

/-- Commands that are isolated with their view cannot tell whether the others are in the sequence. -/
theorem Isolated.filter {α : Type} {cfg : Config} {keep : Command → Bool} {view : State → α}
    (h : Isolated cfg keep view) (cs : List Command) :
    ∀ s s' : State, view s = view s' →
      view (issueAll cfg cs s) = view (issueAll cfg (cs.filter keep) s') ∧
        responsesTo cfg keep cs s = responsesTo cfg keep (cs.filter keep) s' := by
  induction cs with
  | nil => exact fun s s' hview => ⟨hview, rfl⟩
  | cons c cs ih =>
    intro s s' hview
    cases hc : keep c with
    | false => simpa [hc, responsesTo] using ih _ s' ((h.frame c s hc).trans hview)
    | true =>
      obtain ⟨hregs, hresps⟩ := ih _ _ (h.view_congr c s s' hc hview)
      simp [hc, responsesTo, hregs, hresps, h.response_congr c s s' hc hview]

theorem exists_of_generatorCommand {c : Command} (h : generatorCommand c = true) :
    ∃ i, decode c = .ok i ∧ onGenerator i = true := by
  unfold generatorCommand at h
  split at h
  · exact ⟨_, ‹_›, h⟩
  · cases h

theorem exists_of_hasherCommand {c : Command} (h : hasherCommand c = true) :
    ∃ i, decode c = .ok i ∧ onGenerator i = false := by
  unfold hasherCommand at h
  split at h
  · exact ⟨_, ‹_›, by simpa using h⟩
  · cases h

/-- A command that is not the generator's leaves `SS`: it is the hasher's or it is illegal. -/
theorem performCommand_ss_of_not_generatorCommand {cfg : Config} {c : Command} {s : State}
    (hc : generatorCommand c = false) : (performCommand cfg c s).ss = s.ss := by
  cases hd : decode c with
  | ok i =>
    have hi : onGenerator i = false := by simpa [generatorCommand, hd] using hc
    rw [performCommand_of_ok hd, perform_ss_of_not_onGenerator hi]
  | error g => rw [performCommand_of_error hd]; rfl

/-- A command that is not the hasher's leaves the lanes and the counter: it is the generator's or it is illegal. -/
theorem performCommand_hasher_of_not_hasherCommand {cfg : Config} {c : Command} {s : State}
    (hc : hasherCommand c = false) : (performCommand cfg c s).hasher = s.hasher := by
  cases hd : decode c with
  | ok i =>
    have hi : onGenerator i = true := by simpa [hasherCommand, hd] using hc
    rw [performCommand_of_ok hd, perform_hasher_of_onGenerator hi]
  | error g => rw [performCommand_of_error hd]; rfl

theorem performCommand_congr_of_generatorCommand {cfg : Config} {c : Command} {s s' : State}
    (hc : generatorCommand c = true) (h : s.ss = s'.ss) :
    (performCommand cfg c s).ss = (performCommand cfg c s').ss ∧
      (performCommand cfg c s).offered = (performCommand cfg c s').offered := by
  obtain ⟨i, hd, hi⟩ := exists_of_generatorCommand hc
  rw [performCommand_of_ok hd, performCommand_of_ok hd]
  exact perform_congr_of_onGenerator hi h

theorem performCommand_congr_of_hasherCommand {cfg : Config} {c : Command} {s s' : State}
    (hc : hasherCommand c = true) (h : s.hasher = s'.hasher) :
    (performCommand cfg c s).hasher = (performCommand cfg c s').hasher ∧
      (performCommand cfg c s).offered = (performCommand cfg c s').offered := by
  obtain ⟨i, hd, hi⟩ := exists_of_hasherCommand hc
  rw [performCommand_of_ok hd, performCommand_of_ok hd]
  exact perform_congr_of_not_onGenerator hi h

theorem isolated_generator (cfg : Config) : Isolated cfg generatorCommand State.ss where
  frame c s hc := (issue_ss cfg c s).trans (performCommand_ss_of_not_generatorCommand hc)
  view_congr c s s' hc h := by simpa using (performCommand_congr_of_generatorCommand hc h).1
  response_congr _ _ _ hc h := issue_response_congr (performCommand_congr_of_generatorCommand hc h).2

theorem isolated_hasher (cfg : Config) : Isolated cfg hasherCommand State.hasher where
  frame c s hc := (issue_hasher cfg c s).trans (performCommand_hasher_of_not_hasherCommand hc)
  view_congr c s s' hc h := by simpa using (performCommand_congr_of_hasherCommand hc h).1
  response_congr _ _ _ hc h := issue_response_congr (performCommand_congr_of_hasherCommand hc h).2

/-! ## The two lanes of a block -/

/-- A word takes its eight bytes and nothing else (20_memory.md R42). -/
theorem assembleWord_congr (order : ByteOrder) {p q : Nat → Byte} (h : ∀ i < 8, p i = q i) :
    assembleWord order p = assembleWord order q := by
  cases order <;> simp [assembleWord, h]

theorem paddedByte_congr {w w' : Operand} {i : Nat} (len : Nat) (h : operandByte w i = operandByte w' i) :
    paddedByte len w i = paddedByte len w' i := by
  simp [paddedByte, h]

/-- The first word of a block is made of bytes 0 to 7 (42_hasher.md R115). -/
theorem blockWords_fst_congr (order : ByteOrder) (len : Nat) {w w' : Operand}
    (h : ∀ i < 8, operandByte w i = operandByte w' i) :
    (blockWords order len w).1 = (blockWords order len w').1 :=
  assembleWord_congr order fun i hi => paddedByte_congr len (h i hi)

/-- The second word of a block is made of bytes 8 to 15 (42_hasher.md R115). -/
theorem blockWords_snd_congr (order : ByteOrder) (len : Nat) {w w' : Operand}
    (h : ∀ i < 8, operandByte w (8 + i) = operandByte w' (8 + i)) :
    (blockWords order len w).2 = (blockWords order len w').2 := by
  simp only [blockWords]
  exact assembleWord_congr order fun i hi => paddedByte_congr len (h i hi)

section Lanes

variable (cfg : Config) (len : Len) (w : Operand) (s : State)

/-- The lanes after an absorption of any `LEN`: they move exactly where `LEN` is 1 to 16 (42_hasher.md R114, R118). -/
theorem perform_hAbsorb_lanes :
    (perform cfg (.hAbsorb len w) s).l0 = (if 16 < len.toNat ∨ len = 0 then s.l0
      else compress cfg s.l0 (blockWords cfg.byteOrder len.toNat w).1) ∧
    (perform cfg (.hAbsorb len w) s).l1 = (if 16 < len.toNat ∨ len = 0 then s.l1
      else compress cfg s.l1 (blockWords cfg.byteOrder len.toNat w).2) := by
  rcases hAbsorbOn_cases cfg len w s with ⟨hgt, h⟩ | ⟨h0, h⟩ | ⟨hne, hle, h⟩
  · simp only [perform, h, if_pos (Or.inl hgt)]
    exact ⟨rfl, rfl⟩
  · simp only [perform, h, if_pos (Or.inr h0)]
    exact ⟨rfl, rfl⟩
  · simp only [perform, h, if_neg (not_or.mpr ⟨hle.not_gt, hne⟩)]
    exact ⟨rfl, rfl⟩

end Lanes

/-! ## The state after reset -/

/-- `H.FINAL` straight after `H.INIT v` answers the digest of the seed's own lanes, and no block (44_compositions.md R142). -/
theorem hashBuffer_nil (cfg : Config) (v : Word) (s : State) :
    (hashBuffer cfg [] v s).2 = digest cfg (cfg.laneInit v).1 (cfg.laneInit v).2 0 := by
  have hfinal (t : State) : (issue cfg (encode .hFinal) t).2 = ⟨.ok, digest cfg t.l0 t.l1 t.cnt⟩ :=
    issue_response (by rw [performCommand_encode cfg rfl]; rfl)
  simp [hashBuffer, insertBuffer, hfinal, performCommand_encode cfg (i := .hInit v) rfl, perform_hInit]

/-- `SS.SEED v; H.INIT w` writes all four registers (10_state.md R32). -/
theorem issueAll_seed_init_registers (cfg : Config) (v w : Word) (s : State) :
    (issueAll cfg [encode (.ssSeed v), encode (.hInit w)] s).registers =
      (v, (cfg.laneInit w).1, (cfg.laneInit w).2, 0) := by
  simp [State.registers, performCommand_encode cfg (i := .ssSeed v) rfl, perform_ssSeed,
    performCommand_encode cfg (i := .hInit w) rfl, perform_hInit]

/-! ## The statements -/

/-- Settles O34, from the frame of each unit's instructions. -/
theorem unitsDoNotAlias : Obligations.UnitsDoNotAlias := by
  intro cfg i s
  obtain ⟨hin, htaken, -⟩ := perform_port cfg i s
  refine ⟨perform_hasher_of_onGenerator, perform_ss_of_not_onGenerator, ?_, hin, htaken⟩
  rintro rfl
  exact perform_hFinal_cnt

/-- Settles O35. -/
theorem generatorIsolation : Obligations.GeneratorIsolation :=
  fun cfg cs => (isolated_generator cfg).filter cs

/-- Settles O36. -/
theorem hasherIsolation : Obligations.HasherIsolation :=
  fun cfg cs => (isolated_hasher cfg).filter cs

/-- Settles O37: each lane after an absorption, written out, reads that lane and that lane's word only. -/
theorem lanesAreIndependent : Obligations.LanesAreIndependent := by
  intro cfg len w w' s s'
  obtain ⟨h0, h1⟩ := perform_hAbsorb_lanes cfg len w s
  obtain ⟨h0', h1'⟩ := perform_hAbsorb_lanes cfg len w' s'
  constructor
  · intro hl hbytes
    rw [h0, h0', hl, blockWords_fst_congr _ _ hbytes]
  · intro hl hbytes
    rw [h1, h1', hl, blockWords_snd_congr _ _ hbytes]

/-- Settles O14: both routes to the digest end in the digest of the lanes of seed 0, which is evaluated once. -/
theorem resetIsFreshInstances : Obligations.ResetIsFreshInstances := by
  have hregs : State.reset.registers = (0, 0xE220A8397B1DCDAF, 0x6E789E6AA1B965F4, 0) := by decide
  have hdigest : digest refConfig (refConfig.laneInit 0).1 (refConfig.laneInit 0).2 0 = 0xEEC9CEEFBA1CFDC5 := by decide
  refine ⟨hregs, rfl, issueAll_seed_init_registers refConfig 0 0, ?_, ?_⟩
  · rw [exec_eq_next_perform, perform_hFinal_of_none rfl, ← hdigest]
    rfl
  · intro s
    rw [hashBuffer_nil, hdigest]

end Sys2Proof.Machine
end

section
/-! SUPPORT. The facts that the statements of 20_memory.md need: responses the block can give, a response held at the ports,
operands that agree where the command word reads them, commands issued twice, and the words of a block as sums of bytes. -/

namespace Sys2Proof.Machine

open Sys2Proof

/-! ## Responses the block can give: each operation keeps them (20_memory.md R50) -/

section Proper

variable {cfg : Config} {s : State}

theorem ResponsesProper.resetBlock (h : ResponsesProper s) : ResponsesProper (resetBlock cfg s) :=
  ⟨by simp, h.2⟩

/-- The response that joins those taken is the one that was offered. -/
theorem ResponsesProper.takeResponse (h : ResponsesProper s) : ResponsesProper (takeResponse s) := by
  obtain ⟨hoff, htaken⟩ := h
  cases hs : s.offered with
  | none =>
    rw [takeResponse_of_none hs]
    exact ⟨hoff, htaken⟩
  | some r =>
    rw [takeResponse_of_some hs]
    refine ⟨by simp, fun r' hr' => ?_⟩
    rcases List.mem_append.mp hr' with hold | hnew
    · exact htaken r' hold
    · rw [List.mem_singleton.mp hnew]
      exact hoff r hs

/-- A legal word answers `OK`, any other one the exception, whose data is 0 (60_exceptions.md R160). -/
theorem performCommand_offers_proper {c : Command} {r : Response} (h : (performCommand cfg c s).offered = some r) :
    r.proper := by
  intro hillegal
  cases hlegal : legalWord c.cmd with
  | true =>
    obtain ⟨d, hd⟩ := performCommand_offers_ok cfg s hlegal
    rw [Option.some.inj (h.symm.trans hd)] at hillegal
    cases hillegal
  | false =>
    rw [performCommand_of_not_legalWord cfg s hlegal] at h
    exact congrArg Response.data (Option.some.inj h).symm

theorem ResponsesProper.performCommand (c : Command) (h : ResponsesProper s) :
    ResponsesProper (performCommand cfg c s) := by
  obtain ⟨-, htaken, -⟩ := performCommand_port cfg c s
  refine ⟨fun r hr => performCommand_offers_proper hr, ?_⟩
  rw [htaken]
  exact h.2

/-- One moment of the ports, over everything that it can be. -/
theorem ResponsesProper.portMoment (p : PortIn) (h : ResponsesProper s) :
    ∃ t, portMoment refConfig exec p s = .next t ∧ ResponsesProper t := by
  rcases portMoment_cases refConfig exec p s with ⟨-, hm⟩ | ⟨-, -, hm⟩ | ⟨-, -, -, hm⟩ | ⟨-, -, -, hm⟩
  · exact ⟨_, hm, h.resetBlock⟩
  · refine ⟨_, hm, ?_⟩
    split
    · exact h.takeResponse
    · exact h
  · exact ⟨_, hm.trans (acceptCommand_exec _ _), h.performCommand _⟩
  · exact ⟨_, hm, h⟩

end Proper

/-! ## A response at the ports -/

section Held

variable {s : State}

/-- A step in which the host does not take the response that is offered: only the moment passes (20_memory.md R50, R51). -/
theorem step_of_held {p : PortIn} {rest : List PortIn} (hin : s.inputs = p :: rest) (hrst : p.rst = false)
    (hoff : s.offered.isSome = true) (hready : p.rspReady = false) : step s = .next { s with inputs := rest } := by
  simp [step_of_cons hin, portMoment, hrst, hoff, hready]

/-- A neglected response is held for one step, the inputs over or not (20_memory.md R51). -/
theorem step_of_neglected (hoff : s.offered.isSome = true) (hneg : ∀ p ∈ s.inputs, p.neglects = true) :
    step s = .next { s with inputs := s.inputs.drop 1 } := by
  rcases portStep_cases refConfig exec s with ⟨hin, h⟩ | ⟨p, rest, hin, -⟩
  · refine h.trans ?_
    rw [hin, List.drop_nil, ← hin]
  · obtain ⟨hrst, hready⟩ : p.rst = false ∧ p.rspReady = false := by
      simpa [PortIn.neglects] using hneg p (by simp [hin])
    rw [step_of_held hin hrst hoff hready, hin]
    rfl

end Held

/-! ## Operand bits that the command word ignores -/

/-- The words of format S, by their fields (30_encoding.md R61, R63). -/
theorem scalarWord_iff_fields (cmd : CommandWord) :
    (cmd = 0x20 ∨ cmd = 0x60 ∨ cmd = 0x80) ↔
      (opField cmd = 1#3 ∨ opField cmd = 3#3 ∨ opField cmd = 4#3) ∧ argField cmd = 0 := by
  revert cmd; decide

/-- Words of format N and reserved words decode alike with every operand (20_memory.md R41). -/
theorem decode_congr_of_unused {cmd : CommandWord} (hscalar : ¬(cmd = 0x20 ∨ cmd = 0x60 ∨ cmd = 0x80))
    (hblock : ¬(opField cmd = 0b101#3 ∧ (argField cmd).toNat ≤ 16)) (w w' : Operand) :
    decode ⟨cmd, w⟩ = decode ⟨cmd, w'⟩ := by
  rw [scalarWord_iff_fields] at hscalar
  have hseed : ¬(opField cmd = 1#3 ∧ argField cmd = 0) := fun ⟨hop, harg⟩ => hscalar ⟨.inl hop, harg⟩
  have hdiscard : ¬(opField cmd = 3#3 ∧ argField cmd = 0) := fun ⟨hop, harg⟩ => hscalar ⟨.inr (.inl hop), harg⟩
  have hinit : ¬(opField cmd = 4#3 ∧ argField cmd = 0) := fun ⟨hop, harg⟩ => hscalar ⟨.inr (.inr hop), harg⟩
  simp only [decode, if_neg hseed, if_neg hdiscard, if_neg hinit, if_neg hblock]

/-- Words of format S read the scalar and nothing else (30_encoding.md R62). -/
theorem decode_congr_of_scalarOperand (cmd : CommandWord) {w w' : Operand}
    (hblock : ¬(opField cmd = 0b101#3 ∧ (argField cmd).toNat ≤ 16)) (h : scalarOperand w = scalarOperand w') :
    decode ⟨cmd, w⟩ = decode ⟨cmd, w'⟩ := by
  simp only [decode, h, if_neg hblock]

/-- A legal word of format B. -/
theorem decode_of_block {cmd : CommandWord} (h : opField cmd = 0b101#3 ∧ (argField cmd).toNat ≤ 16) (w : Operand) :
    decode ⟨cmd, w⟩ = .ok (.hAbsorb (argField cmd) w) := by
  simp [decode, h]

/-- The padding drops the bytes from `LEN` on (42_hasher.md R115). -/
theorem blockWords_congr (order : ByteOrder) {len : Nat} {w w' : Operand}
    (h : ∀ i < len, operandByte w i = operandByte w' i) : blockWords order len w = blockWords order len w' := by
  have hpadded : paddedByte len w = paddedByte len w' := funext fun i => if_ctx_congr Iff.rfl (h i) fun _ => rfl
  rw [blockWords, blockWords, hpadded]

/-- Absorption reads the words of its block and nothing else of the operand. -/
theorem perform_hAbsorb_congr {cfg : Config} {len : Len} {w w' : Operand}
    (h : ∀ i < len.toNat, operandByte w i = operandByte w' i) (s : State) :
    perform cfg (.hAbsorb len w) s = perform cfg (.hAbsorb len w') s := by
  simp only [perform, hAbsorbOn, absorbBlock, blockWords_congr cfg.byteOrder h]

theorem performCommand_congr_of_decode {cfg : Config} {c c' : Command} (h : decode c = decode c') (s : State) :
    performCommand cfg c s = performCommand cfg c' s := by
  rw [performCommand, performCommand, h]

/-! ## A command issued twice -/

section Twice

variable {cfg : Config} {i : Instr} {s s' : State}

theorem registers_eq_iff : s.registers = s'.registers ↔ s.ss = s'.ss ∧ s.hasher = s'.hasher := by
  simp [State.registers, State.hasher]

/-- What an instruction leaves in the registers and answers is a function of the registers (10_state.md R28). -/
theorem perform_congr_of_registers (h : s.registers = s'.registers) :
    (perform cfg i s).registers = (perform cfg i s').registers ∧
      (perform cfg i s).offered = (perform cfg i s').offered := by
  simp only [registers_eq_iff] at h ⊢
  obtain ⟨hss, hhasher⟩ := h
  cases hi : onGenerator i with
  | true =>
    obtain ⟨hgen, hoff⟩ := perform_congr_of_onGenerator (cfg := cfg) hi hss
    refine ⟨⟨hgen, ?_⟩, hoff⟩
    rw [perform_hasher_of_onGenerator hi, perform_hasher_of_onGenerator hi, hhasher]
  | false =>
    obtain ⟨hhash, hoff⟩ := perform_congr_of_not_onGenerator (cfg := cfg) hi hhasher
    refine ⟨⟨?_, hhash⟩, hoff⟩
    rw [perform_ss_of_not_onGenerator hi, perform_ss_of_not_onGenerator hi, hss]

theorem issue_encode_registers (hi : i.wellFormed = true) :
    (issue cfg (encode i) s).1.registers = (perform cfg i s).registers := by
  rw [issue_fields, performCommand_encode cfg hi]
  rfl

theorem issueAll_twice_registers (hi : i.wellFormed = true) :
    (issueAll cfg [encode i, encode i] s).registers = (perform cfg i (perform cfg i s)).registers :=
  (issue_encode_registers hi).trans (perform_congr_of_registers (issue_encode_registers hi)).1

/-- An instruction whose effect is idempotent may be issued again: neither the registers nor the response can tell. -/
theorem issue_twice_of_idempotent (hi : i.wellFormed = true)
    (h : perform cfg i (perform cfg i s) = perform cfg i s) :
    (issueAll cfg [encode i, encode i] s).registers = (issueAll cfg [encode i] s).registers ∧
      (issue cfg (encode i) (issue cfg (encode i) s).1).2 = (issue cfg (encode i) s).2 := by
  constructor
  · rw [issueAll_twice_registers hi, h]
    exact (issue_encode_registers hi).symm
  · apply issue_response_congr
    rw [performCommand_encode cfg hi, performCommand_encode cfg hi,
      (perform_congr_of_registers (issue_encode_registers hi)).2, h]

theorem issue_twice_ne (hi : i.wellFormed = true)
    (h : (perform cfg i (perform cfg i s)).registers ≠ (perform cfg i s).registers) :
    (issueAll cfg [encode i, encode i] s).registers ≠ (issueAll cfg [encode i] s).registers := by
  rw [issueAll_twice_registers hi]
  exact fun heq => h (heq.trans (issue_encode_registers hi))

/-- A nonzero number of increments moves the generator: `INC` is odd (00_scope.md R10). -/
theorem mul_inc_ne_zero (hcfg : cfg.Valid) {n : Word} (hn : n ≠ 0) : n * cfg.inc ≠ 0 := by
  intro h
  exact hn (mul_odd_injective hcfg.inc_odd (h.trans (BitVec.zero_mul).symm))

theorem inc_ne_zero (hcfg : cfg.Valid) : cfg.inc ≠ 0 := by
  simpa using mul_inc_ne_zero hcfg (n := 1) (by decide)

/-- The counter grows by a `LEN` that is not 0 modulo `2^64` (42_hasher.md R114). -/
theorem len_word_ne_zero {len : Len} (hpos : 1 ≤ len.toNat) : BitVec.ofNat 64 len.toNat ≠ 0 := by
  have hlt := len.isLt
  intro h
  have hzero : len.toNat % 2 ^ 64 = 0 := congrArg BitVec.toNat h
  omega

end Twice

/-! ## The words of a block as sums of bytes -/

/-- Appending a byte at the bottom, in the integers. -/
theorem toNat_append_byte {n : Nat} (x : BitVec n) (b : Byte) : (x ++ b).toNat = x.toNat * 2 ^ 8 + b.toNat := by
  rw [BitVec.toNat_append, ← Nat.shiftLeft_add_eq_or_of_lt b.isLt, Nat.shiftLeft_eq]

/-- Byte 0 is the least significant one (20_memory.md R42). -/
theorem assembleWord_little_toNat (p : Nat → Byte) :
    (assembleWord .little p).toNat = ∑ i ∈ Finset.range 8, (p i).toNat * 2 ^ (8 * i) := by
  simp only [assembleWord, toNat_append_byte, Finset.sum_range_succ, Finset.sum_range_zero]
  omega

/-- The other byte order reads the eight bytes from the other end (20_memory.md R42). -/
theorem assembleWord_big (p : Nat → Byte) : assembleWord .big p = assembleWord .little fun i => p (7 - i) := rfl

theorem paddedByte_toNat (len : Nat) (w : Operand) (i : Nat) :
    (paddedByte len w i).toNat = if i < len then (w.extractLsb' (8 * i) 8).toNat else 0 :=
  apply_ite BitVec.toNat _ _ _

/-! ## The statements -/

/-- Settles O17: a step is a moment of the ports, or none is to come. -/
theorem stepKeepsResponsesProper : Obligations.StepKeepsResponsesProper := by
  intro s t hs hstep
  rcases portStep_cases refConfig exec s with ⟨-, h⟩ | ⟨p, rest, -, h⟩
  · cases hstep.symm.trans h
    exact hs
  · have hrest : ResponsesProper { s with inputs := rest } := hs
    obtain ⟨t', hm, ht'⟩ := hrest.portMoment p
    cases hstep.symm.trans (h.trans hm)
    exact ht'

/-- Settles O5: operands that agree where the word reads them decode alike, but for the block's bytes, which the padding drops. -/
theorem ignoredOperandBits : Obligations.IgnoredOperandBits := by
  intro cfg cmd w w' s hagree
  unfold agreeOnUsedBits at hagree
  split_ifs at hagree with hscalar hblock
  · refine performCommand_congr_of_decode (decode_congr_of_scalarOperand cmd ?_ hagree) s
    rintro ⟨hop, -⟩
    have hfields := (scalarWord_iff_fields cmd).mp hscalar
    simp [hop] at hfields
  · rw [performCommand_of_ok (decode_of_block hblock w), performCommand_of_ok (decode_of_block hblock w')]
    exact perform_hAbsorb_congr hagree s
  · exact performCommand_congr_of_decode (decode_congr_of_unused hscalar hblock w w') s

/-- Settles O10, by induction on the number of steps. -/
theorem neglectedResponseHangs : Obligations.NeglectedResponseHangs := by
  intro s hoff hneg k
  induction k generalizing s with
  | zero => rfl
  | succ k ih =>
    have hstep : Sys2Proof.core.step s = .next { s with inputs := s.inputs.drop 1 } := step_of_neglected hoff hneg
    have hrest := ih { s with inputs := s.inputs.drop 1 } hoff fun p hp => hneg p (List.mem_of_mem_drop hp)
    simp only [Host.Core.run, hstep, hrest, List.drop_drop, Nat.add_comm 1 k]

/-- Settles O23, by induction on the commands: each transaction adds its own response at the end. -/
theorem responsesInCommandOrder : Obligations.ResponsesInCommandOrder := by
  intro cfg cs
  induction cs with
  | nil => simp [responsesTo]
  | cons c cs ih =>
    intro s
    obtain ⟨htaken, hlength⟩ := ih (issue cfg c s).1
    have hfirst : (issue cfg c s).1.taken = s.taken ++ [(issue cfg c s).2] := by rw [issue_fields]
    exact ⟨by simp [htaken, hfirst, responsesTo], by simp [hlength, responsesTo]⟩

/-- Settles O38: the first five effects are idempotent as maps of the state; the last three move `SS` or `CNT` by a nonzero
amount each time. -/
theorem idempotentCommands : Obligations.IdempotentCommands := by
  intro cfg hcfg hfinal v w op len s
  constructor
  · simp only [List.forall_mem_cons]
    refine ⟨issue_twice_of_idempotent rfl rfl, issue_twice_of_idempotent rfl rfl, issue_twice_of_idempotent rfl ?_,
      issue_twice_of_idempotent rfl rfl, issue_twice_of_idempotent rfl ?_, List.forall_mem_nil _⟩
    · simp only [perform_hFinal_of_none hfinal]
    · simp [perform_ssDiscard]
  · intro hw hpos hle
    simp only [List.forall_mem_cons]
    refine ⟨issue_twice_ne rfl ?_, issue_twice_ne rfl ?_, issue_twice_ne (decide_eq_true hle) ?_,
      List.forall_mem_nil _⟩
    · simpa [State.registers, perform_ssNext] using inc_ne_zero hcfg
    · simpa [State.registers, perform_ssDiscard] using mul_inc_ne_zero hcfg hw
    · intro h
      have hcnt := congrArg (fun r => r.2.2.2) h
      simp only [State.registers, perform_hAbsorb_of_pos op hpos hle] at hcnt
      exact len_word_ne_zero hpos (add_eq_left.mp hcnt)

/-- Settles O48. -/
theorem wordsAreByteSums : Obligations.WordsAreByteSums := by
  intro len w
  have hbig (i : Nat) (hi : i ∈ Finset.range 8) : 8 + (7 - i) = 15 - i := by
    have := Finset.mem_range.mp hi
    omega
  simp only [blockWords, assembleWord_big, assembleWord_little_toNat, paddedByte_toNat, true_and]
  exact Finset.sum_congr rfl fun i hi => by rw [hbig i hi]

/-- Settles O9. -/
theorem responseHeldUntilTaken : Obligations.ResponseHeldUntilTaken := by
  intro s p rest r hin hrst hoff
  cases hready : p.rspReady with
  | true =>
    rw [step_of_taken hin hrst hoff hready, takeResponse_of_some (s := { s with inputs := rest }) hoff]
    rfl
  | false => exact step_of_held hin hrst (by rw [hoff]; rfl) hready

/-- Settles O15. -/
theorem outputPorts : Obligations.OutputPorts := by
  refine ⟨fun s => ?_, fun s => ⟨rfl, rfl, rfl⟩, fun s d => ⟨rfl, rfl⟩⟩
  simp [cmdReady, rspValid]

/-- Settles O18. -/
theorem responsesProperAtReset : Obligations.ResponsesProperAtReset :=
  ⟨by simp [State.reset], by simp [State.reset]⟩

end Sys2Proof.Machine
end

section
/-! SUPPORT. The facts that the statements of 30_encoding.md need: the command word of an instruction is the one that decodes
to it, and the words of each group of reserved words, by their fields and by their values. -/

namespace Sys2Proof.Machine

open Sys2Proof

/-! ## The command word of a decoded instruction -/

/-- A command word is put together from the fields the decoder reads off it (30_encoding.md R60). -/
theorem append_of_fields {cmd : CommandWord} {op : BitVec 3} {arg : BitVec 5}
    (h : opField cmd = op ∧ argField cmd = arg) : op ++ arg = cmd := by
  obtain ⟨rfl, rfl⟩ := h
  exact fields_append cmd

/-- The encoder writes the operation that the decoder matched and the argument it read (30_encoding.md R61, R63, R64). -/
theorem encode_cmd_of_decode_ok {c : Command} {i : Instr} (h : decode c = .ok i) : (encode i).cmd = c.cmd := by
  simp only [decode] at h
  split_ifs at h with hseed hnext hdiscard hinit hblock hfinal <;> cases h
  exacts [append_of_fields hseed, append_of_fields hnext, append_of_fields hdiscard, append_of_fields hinit,
    append_of_fields ⟨hblock.left, rfl⟩, append_of_fields hfinal]

/-! ## The groups of reserved words -/

/-- The decoder refuses exactly the words that are not legal, with the group of their operation (30_encoding.md R65). -/
theorem decode_eq_error_iff (cmd : CommandWord) (w : Operand) (g : Reserved) :
    decode ⟨cmd, w⟩ = .error g ↔ legalWord cmd = false ∧ reservedGroup (opField cmd) = g := by
  constructor
  · intro h
    refine ⟨not_legalWord_of_decode_error h, ?_⟩
    simp only [decode] at h
    split_ifs at h
    exact Except.error.inj h
  · rintro ⟨hillegal, rfl⟩
    rw [legalWord_eq_decide_fields] at hillegal
    simp only [decide_eq_false_iff_not, not_or] at hillegal
    obtain ⟨hseed, hnext, hdiscard, hinit, hblock, hfinal⟩ := hillegal
    simp only [decode, if_neg hseed, if_neg hnext, if_neg hdiscard, if_neg hinit, if_neg hblock, if_neg hfinal]

/-- The values of the command words in a group of reserved words (30_encoding.md R65). -/
def reservedValue : Reserved → Nat → Bool
  | .op, n => n / 32 = 0 ∨ n / 32 = 7
  | .arg, n => n / 32 ∈ [1, 2, 3, 4, 6] ∧ n % 32 ≠ 0
  | .len, n => 0xB1 ≤ n ∧ n ≤ 0xBF

/-- The decoder refuses a word with a group exactly where its value is one of the group's, whatever the operand. -/
theorem decode_eq_error_iff_reservedValue (cmd : CommandWord) (w : Operand) (g : Reserved) :
    decode ⟨cmd, w⟩ = .error g ↔ reservedValue g cmd.toNat = true := by
  rw [decode_eq_error_iff]
  cases g <;> revert cmd <;> decide

/-- Values are counted by operation, and for each operation by argument. -/
theorem countP_range_mul (p : Nat → Bool) (ops args : Nat) :
    (List.range (ops * args)).countP p =
      ∑ op ∈ Finset.range ops, (List.range args).countP fun arg => p (op * args + arg) := by
  induction ops with
  | zero => simp
  | succ ops ih => rw [Nat.succ_mul, List.range_add, List.countP_append, List.countP_map, ih, Finset.sum_range_succ]; rfl

/-- The size of a group, by the operations 0 to 7 and the arguments 0 to 31 of its values (30_encoding.md R65). -/
theorem countP_decode_eq_error (g : Reserved) :
    ((List.range 256).countP fun n => decode ⟨BitVec.ofNat 8 n, 0⟩ == .error g) =
      ∑ op ∈ Finset.range 8, (List.range 32).countP fun arg => reservedValue g (op * 32 + arg) := by
  refine (List.countP_congr fun n hn => ?_).trans (countP_range_mul (reservedValue g) 8 32)
  have hval : (BitVec.ofNat 8 n).toNat = n := Nat.mod_eq_of_lt (List.mem_range.mp hn)
  rw [beq_iff_eq, decode_eq_error_iff_reservedValue, hval]

/-! ## The statements -/

/-- Settles O1. -/
theorem decodeOfEncode : Obligations.DecodeOfEncode := fun _ => decode_encode

/-- Settles O2: the command word is the encoder's own, so the decoder reads the encoded command. -/
theorem encodeOfDecode : Obligations.EncodeOfDecode := by
  intro c i h
  have hwf := wellFormed_of_decode_ok h
  have hcmd := encode_cmd_of_decode_ok h
  refine ⟨hwf, hcmd, ?_⟩
  rw [← hcmd]
  exact decode_encode hwf

/-- Settles O4: each group by its values, which also give its size; the effect is the exception's, whatever the group. -/
theorem reservedWordsByGroup : Obligations.ReservedWordsByGroup := by
  refine ⟨fun cmd w => ?_, fun cmd w => ?_, fun cmd w => ?_, ?_, ?_, ?_, fun cfg cmd w g s h => performCommand_of_error h⟩
  · exact (decode_eq_error_iff_reservedValue cmd w .op).trans decide_eq_true_iff
  · exact (decode_eq_error_iff_reservedValue cmd w .arg).trans decide_eq_true_iff
  · exact (decode_eq_error_iff_reservedValue cmd w .len).trans decide_eq_true_iff
  · exact (countP_decode_eq_error .op).trans (by decide)
  · exact (countP_decode_eq_error .arg).trans (by decide)
  · exact (countP_decode_eq_error .len).trans (by decide)

/-- Settles O3. -/
theorem sampleWordsDecode : Obligations.SampleWordsDecode := by
  unfold Obligations.SampleWordsDecode
  decide

end Sys2Proof.Machine
end

section
/-! SUPPORT. The facts that the statements of 40_seedstream.md need: the generator's command words, the state and the draws of a
run of `SS.NEXT` in closed form, an odd increment as a unit, the corner cases of a discard, and the REF mixer's bijection. -/

namespace Sys2Proof.Machine

open Sys2Proof

/-! ## The generator's command words, with any operand (30_encoding.md R63) -/

theorem decode_ssSeedWord (w : Operand) : decode ⟨0x20, w⟩ = .ok (.ssSeed (scalarOperand w)) := by
  simp [decode, opField, argField]

theorem decode_ssNextWord (w : Operand) : decode ⟨0x40, w⟩ = .ok .ssNext := by
  simp [decode, opField, argField]

theorem decode_ssDiscardWord (w : Operand) : decode ⟨0x60, w⟩ = .ok (.ssDiscard (scalarOperand w)) := by
  simp [decode, opField, argField]

/-! ## The command of an instruction as a transaction -/

section Transactions

variable {cfg : Config} {i : Instr} {s : State}

/-- The response to the command of an instruction is the one that the instruction offers. -/
theorem issue_encode_response {r : Response} (hi : i.wellFormed = true) (h : (perform cfg i s).offered = some r) :
    (issue cfg (encode i) s).2 = r :=
  issue_response (by rw [performCommand_encode cfg hi, h])

theorem issue_encode_ss (hi : i.wellFormed = true) : (issue cfg (encode i) s).1.ss = (perform cfg i s).ss := by
  rw [issue_ss, performCommand_encode cfg hi]

end Transactions

/-! ## Advances, draws and the generator's transactions -/

section Draws

variable (cfg : Config)

/-- Advances add up (40_seedstream.md R86). -/
theorem add_mul_inc_add_mul_inc (v n k : Word) : v + n * cfg.inc + k * cfg.inc = v + (n + k) * cfg.inc := by ring

/-- A draw after an advance is a later draw of the state before it (40_seedstream.md R80). -/
theorem draw_add_mul_inc (v n k : Word) : draw cfg (v + n * cfg.inc) k = draw cfg v (n + k) := by
  rw [draw, add_mul_inc_add_mul_inc, draw]

/-- One advance and then `n` are `n + 1`. -/
theorem add_inc_add_ofNat_mul_inc (v : Word) (n : Nat) :
    v + cfg.inc + BitVec.ofNat 64 n * cfg.inc = v + BitVec.ofNat 64 (n + 1) * cfg.inc := by
  rw [Nat.add_comm, BitVec.ofNat_add, ← add_mul_inc_add_mul_inc, BitVec.one_mul]

/-- The draws of an advanced state are those of the state before it, counted on by one. -/
theorem draw_add_inc (v : Word) (n : Nat) :
    draw cfg (v + cfg.inc) (BitVec.ofNat 64 n) = draw cfg v (BitVec.ofNat 64 (n + 1)) := by
  rw [draw, add_inc_add_ofNat_mul_inc, draw]

variable (s : State)

theorem issue_ssSeed_ss (v : Word) : (issue cfg (encode (.ssSeed v)) s).1.ss = v := issue_encode_ss rfl

theorem issue_ssSeed_response (v : Word) : (issue cfg (encode (.ssSeed v)) s).2 = ⟨.ok, 0⟩ :=
  issue_encode_response rfl rfl

theorem issue_ssNext_ss : (issue cfg (encode .ssNext) s).1.ss = s.ss + cfg.inc := issue_encode_ss rfl

/-- The first draw is `Mix` of the advanced state, not of the old (40_seedstream.md R80, R84). -/
theorem issue_ssNext_response : (issue cfg (encode .ssNext) s).2 = ⟨.ok, draw cfg s.ss 1⟩ := by
  rw [draw, one_mul]
  exact issue_encode_response rfl rfl

theorem issue_ssDiscard_ss (n : Word) : (issue cfg (encode (.ssDiscard n)) s).1.ss = s.ss + n * cfg.inc :=
  issue_encode_ss rfl

theorem issue_ssDiscard_response (n : Word) : (issue cfg (encode (.ssDiscard n)) s).2 = ⟨.ok, 0⟩ :=
  issue_encode_response rfl rfl

theorem issue_ssDiscard_hasher (n : Word) : (issue cfg (encode (.ssDiscard n)) s).1.hasher = s.hasher := by
  rw [issue_hasher, performCommand_encode cfg rfl, perform_hasher_of_onGenerator rfl]

/-- The state after `n` draws from any state (40_seedstream.md R80). -/
theorem drawSeeds_ss (n : Nat) : (drawSeeds cfg n s).1.ss = s.ss + BitVec.ofNat 64 n * cfg.inc := by
  induction n generalizing s with
  | zero => simp [drawSeeds]
  | succ n ih => rw [drawSeeds, ih, issue_ssNext_ss, add_inc_add_ofNat_mul_inc]

/-- The `n` draws from any state, in order (40_seedstream.md R80). -/
theorem drawSeeds_draws (n : Nat) :
    (drawSeeds cfg n s).2 = (List.range n).map fun k => draw cfg s.ss (BitVec.ofNat 64 (k + 1)) := by
  induction n generalizing s with
  | zero => rfl
  | succ n ih =>
    have hrest : (drawSeeds cfg n (issue cfg (encode .ssNext) s).1).2 =
        (List.range n).map fun k => draw cfg s.ss (BitVec.ofNat 64 (k + 1 + 1)) := by
      simp only [ih, issue_ssNext_ss, draw_add_inc]
    rw [List.range_succ_eq_map, List.map_cons, List.map_map, drawSeeds, hrest, issue_ssNext_response]
    rfl

theorem iterate_ssNext_ss (k : Nat) :
    ((perform cfg .ssNext)^[k] s).ss = s.ss + BitVec.ofNat 64 k * cfg.inc := by
  induction k generalizing s with
  | zero => simp
  | succ k ih => rw [Function.iterate_succ_apply, ih, perform_ssNext, add_inc_add_ofNat_mul_inc]

theorem iterate_ssNext_hasher (k : Nat) : ((perform cfg .ssNext)^[k] s).hasher = s.hasher := by
  induction k generalizing s with
  | zero => rfl
  | succ k ih => rw [Function.iterate_succ_apply, ih, perform_hasher_of_onGenerator rfl]

end Draws

/-! ## An odd increment -/

/-- A number of increments adds up to 0 exactly when it is a multiple of `2^64` (00_scope.md R10, 40_seedstream.md R87). -/
theorem ofNat_mul_inc_eq_zero_iff {cfg : Config} (hcfg : cfg.Valid) (k : Nat) :
    BitVec.ofNat 64 k * cfg.inc = 0 ↔ 2 ^ 64 ∣ k := by
  have hword : BitVec.ofNat 64 k = 0 ↔ 2 ^ 64 ∣ k := by
    rw [← BitVec.toNat_inj, BitVec.toNat_ofNat]
    exact Nat.dvd_iff_mod_eq_zero.symm
  rw [← hword]
  exact ⟨not_imp_not.mp (mul_inc_ne_zero hcfg), fun h => by rw [h, zero_mul]⟩

/-- Every word is a multiple of the increment: the words are finitely many. -/
theorem exists_mul_inc_eq {cfg : Config} (hcfg : cfg.Valid) (d : Word) : ∃ n : Word, n * cfg.inc = d :=
  Finite.surjective_of_injective (mul_odd_injective hcfg.inc_odd) d

theorem refInc_mul_inverse : refInc * 0xF1DE83E19937733D = 1 := by decide

/-! ## The corner cases of `SS.DISCARD` under REF -/

/-- The effect of `SS.DISCARD` under REF (40_seedstream.md R85). -/
theorem exec_ssDiscard (n : Word) (s : State) :
    exec (.ssDiscard n) s = .next { s with ss := s.ss + n * refInc, offered := some ⟨.ok, 0⟩ } := by
  rw [exec_eq_next_perform, perform_ssDiscard]
  rfl

/-- No carry goes into or out of the top bit when it is all that is added. -/
theorem add_intMin_eq_xor {w : Nat} (x : BitVec w) : x + BitVec.intMin w = x ^^^ BitVec.intMin w := by
  ext i hi
  have hcarry : BitVec.carry i x (BitVec.intMin w) false = false := by
    have hdvd : 2 ^ i ∣ 2 ^ (w - 1) := Nat.pow_dvd_pow 2 (by omega)
    have hzero : (BitVec.intMin w).toNat % 2 ^ i = 0 := by
      rw [BitVec.toNat_intMin]
      exact Nat.mod_eq_zero_of_dvd ((Nat.dvd_mod_iff (Nat.pow_dvd_pow 2 hi.le)).mpr hdvd)
    have hlt : x.toNat % 2 ^ i < 2 ^ i := Nat.mod_lt _ (Nat.two_pow_pos i)
    rw [BitVec.carry, hzero]
    exact decide_eq_false hlt.not_ge
  rw [BitVec.getElem_add, hcarry, Bool.xor_false, BitVec.getElem_xor]

theorem add_neg_one_mul_refInc (v : Word) : v + 0xFFFFFFFFFFFFFFFF * refInc = v - refInc := by
  have hneg : (0xFFFFFFFFFFFFFFFF : Word) = -1 := by decide
  rw [hneg, neg_one_mul, sub_eq_add_neg]

/-- An odd factor keeps the top bit alone. -/
theorem add_topBit_mul_refInc (v : Word) : v + 0x8000000000000000 * refInc = v ^^^ 0x8000000000000000 := by
  have htop : 0x8000000000000000 * refInc = BitVec.intMin 64 := by decide
  rw [htop, add_intMin_eq_xor]
  rfl

/-! ## The REF mixer -/

/-- Each line of the mixer can be undone: a shift and xor, then a multiply by an odd constant (40_seedstream.md R81, R82). -/
theorem refMix_injective : Function.Injective refMix := by
  intro z z' heq
  have hz2 := xor_ushiftRight_injective (k := 31) (by decide) heq
  have hz1' := mul_odd_injective (k := (0x94D049BB133111EB : Word)) (by decide) hz2
  have hz1 := xor_ushiftRight_injective (k := 27) (by decide) hz1'
  have hz := mul_odd_injective (k := (0xBF58476D1CE4E5B9 : Word)) (by decide) hz1
  exact xor_ushiftRight_injective (k := 30) (by decide) hz

theorem refMix_zero : refMix 0 = 0 := by decide

theorem refMix_eq_zero_iff (z : Word) : refMix z = 0 ↔ z = 0 := by
  rw [← refMix_injective.eq_iff (a := z), refMix_zero]

/-- The one state that the increment takes to 0 (40_seedstream.md R82). -/
theorem add_refInc_eq_zero_iff (v : Word) : v + refInc = 0 ↔ v = 0x61C8864680B583EB := by
  have hneg : -refInc = 0x61C8864680B583EB := by decide
  rw [add_eq_zero_iff_eq_neg, hneg]

/-! ## The statements -/

/-- Settles O39: the state and the draws from any state, applied to the state that seeding leaves. -/
theorem drawsHaveClosedForm : Obligations.DrawsHaveClosedForm := by
  intro cfg seed n s
  have hss := drawSeeds_ss cfg (issue cfg (encode (.ssSeed seed)) s).1 n
  have hdraws := drawSeeds_draws cfg (issue cfg (encode (.ssSeed seed)) s).1 n
  rw [issue_ssSeed_ss] at hss hdraws
  exact ⟨hss, hdraws⟩

/-- Settles O40: a discard and a run of draws add the same multiple of the increment and leave the hasher. -/
theorem discardLaw : Obligations.DiscardLaw := by
  intro cfg s
  refine ⟨fun n => ?_, fun seed n => ?_, fun a b => ?_⟩
  · rw [registers_eq_iff, iterate_ssNext_ss, iterate_ssNext_hasher, BitVec.ofNat_toNat, BitVec.setWidth_eq]
    exact ⟨rfl, rfl⟩
  · simp only [responsesTo, if_true, issue_ssSeed_response, issue_ssDiscard_response, issue_ssNext_response,
      issue_ssDiscard_ss, issue_ssSeed_ss, draw_add_mul_inc]
    rfl
  · simp only [issueAll_cons, issueAll_nil, registers_eq_iff, issue_ssDiscard_ss, issue_ssDiscard_hasher,
      add_mul_inc_add_mul_inc, and_self]

/-- Settles O41: the increment is odd, so a unit. -/
theorem generatorHasFullPeriod : Obligations.GeneratorHasFullPeriod := by
  refine ⟨fun cfg hcfg s k => ?_, fun cfg hcfg s b => ?_, refInc_mul_inverse, fun s b => ?_⟩
  · rw [iterate_ssNext_ss, add_eq_left, ← ofNat_mul_inc_eq_zero_iff hcfg]
  · obtain ⟨n, hn⟩ := exists_mul_inc_eq hcfg (b - s.ss)
    exact ⟨n, by rw [perform_ssDiscard, hn, add_sub_cancel]⟩
  · calc s.ss + (b - s.ss) * 0xF1DE83E19937733D * refInc
        = s.ss + (b - s.ss) * (refInc * 0xF1DE83E19937733D) := by rw [mul_assoc, mul_comm refInc]
      _ = b := by rw [refInc_mul_inverse, mul_one, add_sub_cancel]

/-- Settles O42: the mixer is injective on finitely many words, so a bijection, and 0 is its fixed point. -/
theorem refMixIsBijection : Obligations.RefMixIsBijection := by
  refine ⟨Finite.injective_iff_bijective.mp refMix_injective, refMix_zero, fun s => ?_⟩
  have hnext : (perform refConfig .ssNext s).offered = some ⟨.ok, refMix (s.ss + refInc)⟩ := rfl
  rw [hnext, ← add_refInc_eq_zero_iff, ← refMix_eq_zero_iff]
  simp

/-- Settles O26. -/
theorem ssSeedStoresSeed : Obligations.SsSeedStoresSeed :=
  ⟨decode_ssSeedWord, fun v s => by rw [exec_eq_next_perform, perform_ssSeed]⟩

/-- Settles O27. -/
theorem ssNextReturnsMixOfNewState : Obligations.SsNextReturnsMixOfNewState :=
  ⟨decode_ssNextWord, fun s => (exec_eq_next_perform .ssNext s).trans (congrArg _ (perform_ssNext refConfig s))⟩

/-- Settles O28: the corner cases are the multiples by 0, by -1 and by the top bit alone. -/
theorem ssDiscardAdvancesByMultiple : Obligations.SsDiscardAdvancesByMultiple := by
  refine ⟨decode_ssDiscardWord, exec_ssDiscard, fun s => ⟨?_, ?_, ?_⟩⟩
  · rw [exec_ssDiscard, zero_mul, add_zero]
  · rw [exec_ssDiscard, add_neg_one_mul_refInc]
    rfl
  · rw [exec_ssDiscard, add_topBit_mul_refInc]

end Sys2Proof.Machine
end

section
/-! SUPPORT. The facts that the statements of 41_compress.md need: the two words of the wide multiply and that the exact product
determines them, the partial products without a wrap, and `Compress` as a function of the sum of its arguments. -/

namespace Sys2Proof.Machine

open Sys2Proof

/-! ## The wide multiply -/

/-- The largest product of two numbers below a bound. -/
theorem mul_le_of_lt_of_lt {k m n : Nat} (hm : m < k) (hn : n < k) : m * n ≤ (k - 1) * (k - 1) :=
  Nat.mul_le_mul (Nat.le_sub_one_of_lt hm) (Nat.le_sub_one_of_lt hn)

section WideMultiply

variable (a b : Word)

/-- The largest product is `2^128 - 2^65 + 1` (41_compress.md R100). -/
theorem toNat_mul_toNat_le : a.toNat * b.toNat ≤ (2 ^ 64 - 1) * (2 ^ 64 - 1) := mul_le_of_lt_of_lt a.isLt b.isLt

theorem wmul_fst_toNat : (wmul a b).1.toNat = a.toNat * b.toNat / 2 ^ 64 := by
  have hle := toNat_mul_toNat_le a b
  simp only [wmul, BitVec.toNat_ofNat]
  omega

theorem wmul_snd_toNat : (wmul a b).2.toNat = a.toNat * b.toNat % 2 ^ 64 := BitVec.toNat_ofNat ..

@[simp] theorem wmul_zero_left : wmul 0#64 b = (0, 0) := by simp [wmul]

@[simp] theorem wmul_zero_right : wmul a 0#64 = (0, 0) := by simp [wmul]

variable {a b}

/-- The exact product determines the two words. -/
theorem eq_wmul_of_exact {p : Word × Word} (h : p.1.toNat * 2 ^ 64 + p.2.toNat = a.toNat * b.toNat) : p = wmul a b := by
  have hlo := p.2.isLt
  refine Prod.ext (BitVec.eq_of_toNat_eq ?_) (BitVec.eq_of_toNat_eq ?_)
  · rw [wmul_fst_toNat]; omega
  · rw [wmul_snd_toNat]; omega

variable (a b)

/-- The two words are the halves of the product of the factors widened to 128 bits. -/
theorem wmul_eq_halves_of_product :
    wmul a b = ((a.setWidth 128 * b.setWidth 128).extractLsb' 64 64, (a.setWidth 128 * b.setWidth 128).extractLsb' 0 64) := by
  have hle := toNat_mul_toNat_le a b
  have hexact : (a.setWidth 128 * b.setWidth 128).toNat = a.toNat * b.toNat := by
    rw [BitVec.toNat_mul, BitVec.toNat_setWidth_of_le (by decide), BitVec.toNat_setWidth_of_le (by decide)]
    exact Nat.mod_eq_of_lt (by omega)
  refine (eq_wmul_of_exact ?_).symm
  simp only [BitVec.extractLsb'_toNat, Nat.shiftRight_eq_div_pow, hexact]
  omega

end WideMultiply

/-! ## The partial products (41_compress.md R101) -/

theorem low32_toNat (v : Word) : (low32 v).toNat = v.toNat % 2 ^ 32 := by
  simp only [low32, BitVec.toNat_setWidth, BitVec.extractLsb'_toNat]
  omega

theorem high32_toNat (v : Word) : (v >>> 32).toNat = v.toNat / 2 ^ 32 := by
  rw [BitVec.toNat_ushiftRight, Nat.shiftRight_eq_div_pow]

/-- A partial product is exact. -/
theorem partialProduct_toNat {u v : Word} (hu : u.toNat < 2 ^ 32) (hv : v.toNat < 2 ^ 32) :
    (u * v).toNat = u.toNat * v.toNat := by
  have hle := mul_le_of_lt_of_lt hu hv
  rw [BitVec.toNat_mul]
  exact Nat.mod_eq_of_lt (by omega)

/-- The column of weight `2^32` is exact: it stays below `3 * 2^32`. -/
theorem middleColumn_toNat (p00 p01 p10 : Word) :
    ((p00 >>> 32) + low32 p01 + low32 p10).toNat = p00.toNat / 2 ^ 32 + p01.toNat % 2 ^ 32 + p10.toNat % 2 ^ 32 := by
  have h00 := p00.isLt
  simp only [BitVec.toNat_add, low32_toNat, high32_toNat]
  omega

/-- Two low halves side by side are one word. -/
theorem joinLow32_toNat (m p : Word) :
    ((low32 m <<< 32) + low32 p).toNat = m.toNat % 2 ^ 32 * 2 ^ 32 + p.toNat % 2 ^ 32 := by
  simp only [BitVec.toNat_add, BitVec.toNat_shiftLeft, low32_toNat, Nat.shiftLeft_eq]
  omega

/-- Partial products added up by columns: the high word does not wrap, and every carry of a column reaches the next. -/
theorem columns_sum_exact {p00 p01 p10 p11 : Word} (h01 : p01.toNat ≤ (2 ^ 32 - 1) * (2 ^ 32 - 1))
    (h10 : p10.toNat ≤ (2 ^ 32 - 1) * (2 ^ 32 - 1)) (h11 : p11.toNat ≤ (2 ^ 32 - 1) * (2 ^ 32 - 1)) :
    (p11 + (p01 >>> 32) + (p10 >>> 32) + (((p00 >>> 32) + low32 p01 + low32 p10) >>> 32)).toNat * 2 ^ 64 +
      ((low32 ((p00 >>> 32) + low32 p01 + low32 p10) <<< 32) + low32 p00).toNat =
    p11.toNat * 2 ^ 64 + (p01.toNat + p10.toNat) * 2 ^ 32 + p00.toNat := by
  have h00 := p00.isLt
  simp only [joinLow32_toNat, BitVec.toNat_add p11, BitVec.toNat_add (p11 + _), BitVec.toNat_add (p11 + _ + _),
    high32_toNat, middleColumn_toNat]
  omega

/-- The schoolbook product over halves of 32 bits. -/
theorem mul_eq_sum_partialProducts (m n : Nat) :
    m * n = m / 2 ^ 32 * (n / 2 ^ 32) * 2 ^ 64 +
      (m % 2 ^ 32 * (n / 2 ^ 32) + m / 2 ^ 32 * (n % 2 ^ 32)) * 2 ^ 32 + m % 2 ^ 32 * (n % 2 ^ 32) := by
  calc m * n = (2 ^ 32 * (m / 2 ^ 32) + m % 2 ^ 32) * (2 ^ 32 * (n / 2 ^ 32) + n % 2 ^ 32) := by
        rw [Nat.div_add_mod, Nat.div_add_mod]
    _ = _ := by ring

/-- The two words of the route over partial products make up the exact product. -/
theorem wmulByParts_exact (a b : Word) :
    (wmulByParts a b).1.toNat * 2 ^ 64 + (wmulByParts a b).2.toNat = a.toNat * b.toNat := by
  have hlow (v : Word) : (low32 v).toNat < 2 ^ 32 := by rw [low32_toNat]; omega
  have hhigh (v : Word) : (v >>> 32).toNat < 2 ^ 32 := by have := v.isLt; rw [high32_toNat]; omega
  have hprod {u v : Word} (hu : u.toNat < 2 ^ 32) (hv : v.toNat < 2 ^ 32) :
      (u * v).toNat ≤ (2 ^ 32 - 1) * (2 ^ 32 - 1) :=
    (partialProduct_toNat hu hv).trans_le (mul_le_of_lt_of_lt hu hv)
  refine (columns_sum_exact (hprod (hlow a) (hhigh b)) (hprod (hhigh a) (hlow b)) (hprod (hhigh a) (hhigh b))).trans ?_
  rw [partialProduct_toNat (hlow a) (hlow b), partialProduct_toNat (hlow a) (hhigh b),
    partialProduct_toNat (hhigh a) (hlow b), partialProduct_toNat (hhigh a) (hhigh b),
    mul_eq_sum_partialProducts a.toNat b.toNat]
  simp only [low32_toNat, high32_toNat]

/-! ## The compression primitive -/

section Compress

variable {cfg : Config} {x y x' y' : Word}

/-- The arguments meet in their sum and are not used again (41_compress.md R104). -/
theorem compress_congr_sum (h : x + y = x' + y') : compress cfg x y = compress cfg x' y' := by
  simp only [compress, compressX, h]

theorem compress_of_add_eq_zero (h : x + y = 0) : compress cfg x y = cfg.c2 := by
  simp [compress, compressX, h]

theorem compress_of_compressX_eq_c2 (h : compressX cfg x y = cfg.c2) : compress cfg x y = 0 := by
  simp [compress, h]

end Compress

/-! ## The statements -/

/-- Settles O43: quotient and remainder by `2^64` of a product that is at most `(2^64 - 1)^2`. -/
theorem wideMultiplyIsExact : Obligations.WideMultiplyIsExact := by
  intro a b
  have hle := toNat_mul_toNat_le a b
  rw [wmul_fst_toNat, wmul_snd_toNat]
  exact ⟨Nat.div_add_mod' .., by omega⟩

/-- Settles O44: the partial products add up to the exact product, which determines the two words. -/
theorem partialProductsAgree : Obligations.PartialProductsAgree := fun a b => eq_wmul_of_exact (wmulByParts_exact a b)

/-- Settles O45: the two words of the wide multiply are the halves of the 128-bit product. -/
theorem compressFormula : Obligations.CompressFormula := by
  intro cfg x y
  rw [compress, wmul_eq_halves_of_product, compressX]

/-- Settles O47: a factor of the wide multiply is 0 in (a) and (b), and the odd `C1` is a unit in (c). -/
theorem compressCornerValues : Obligations.CompressCornerValues := by
  refine ⟨fun _ _ _ => compress_of_add_eq_zero, fun _ _ _ => compress_of_compressX_eq_c2, fun x y h => ?_,
    fun cfg hcfg => Finite.injective_iff_bijective.mp (mul_odd_injective hcfg.c1_odd)⟩
  have hxp : compressX refConfig x y = refConfig.c2 := by
    rw [compressX, h]
    decide
  exact compress_of_compressX_eq_c2 hxp

/-- Settles O46. -/
theorem compressDependsOnSum : Obligations.CompressDependsOnSum := fun _ x y =>
  ⟨fun _ _ => compress_congr_sum, compress_congr_sum (add_comm x y), compress_congr_sum (add_zero (x + y)).symm,
    compress_congr_sum (zero_add (x + y)).symm⟩

end Sys2Proof.Machine
end

section
/-! SUPPORT. The facts that the statements of 42_hasher.md need: the hasher's command words, the padding as a mask and the words of
a block as halves of the operand, the counter, exchanged lanes, and the commands of an ingestion call block by block. -/

namespace Sys2Proof.Machine

open Sys2Proof

/-! ## The hasher's command words, with any operand (30_encoding.md R63) -/

theorem decode_hInitWord (w : Operand) : decode ⟨0x80, w⟩ = .ok (.hInit (scalarOperand w)) := by
  simp [decode, opField, argField]

/-- Every word of operation 101: a length of 17 to 31 is reserved (30_encoding.md R65). -/
theorem decode_hAbsorbWord (len : Len) (w : Operand) :
    decode ⟨0b101#3 ++ len, w⟩ = if len.toNat ≤ 16 then .ok (.hAbsorb len w) else .error .len := by
  simp [decode, reservedGroup]

/-! ## The padding and the words of a block -/

/-- The mask keeps the bits below `8*LEN` (42_hasher.md R115). -/
theorem maskedOperand_getLsbD (len : Nat) (w : Operand) (j : Nat) :
    (maskedOperand len w).getLsbD j = (w.getLsbD j && decide (j < 8 * len)) := by
  by_cases hj : j < 128
  · have hshifted : j - 8 * len < 128 := by omega
    simp only [maskedOperand, BitVec.getLsbD_and, BitVec.getLsbD_not, BitVec.getLsbD_shiftLeft, BitVec.getLsbD_allOnes,
      hj, hshifted, decide_true, Bool.true_and, Bool.and_true, Bool.not_not]
  · simp [BitVec.getLsbD_of_ge _ j (not_lt.mp hj)]

theorem maskedOperand_full (w : Operand) : maskedOperand 16 w = w :=
  BitVec.eq_of_getLsbD_eq fun j hj => by rw [maskedOperand_getLsbD, decide_eq_true hj, Bool.and_true]

/-- The bytes that the block pads with zeros are those that the mask clears (42_hasher.md R115). -/
theorem paddedByte_eq_operandByte_maskedOperand (len : Nat) (w : Operand) (i : Nat) :
    paddedByte len w i = operandByte (maskedOperand len w) i := by
  refine BitVec.eq_of_getLsbD_eq fun k hk => ?_
  have hbyte : 8 * i + k < 8 * len ↔ i < len := by omega
  by_cases hi : i < len <;> simp [paddedByte, operandByte, maskedOperand_getLsbD, hbyte, hi]

/-- The words of a block, over the bytes of the masked operand. -/
theorem blockWords_eq_assembleWord_masked (order : ByteOrder) (len : Nat) (w : Operand) :
    blockWords order len w = (assembleWord order fun i => operandByte (maskedOperand len w) i,
      assembleWord order fun i => operandByte (maskedOperand len w) (8 + i)) := by
  simp only [blockWords, paddedByte_eq_operandByte_maskedOperand]

theorem blockWords_eq_blockWords_masked (order : ByteOrder) (len : Nat) (w : Operand) :
    blockWords order len w = blockWords order 16 (maskedOperand len w) := by
  simp only [blockWords_eq_assembleWord_masked, maskedOperand_full]

/-- Eight bytes of the operand in little-endian order are its bits in place (20_memory.md R42). -/
theorem assembleWord_little_operandByte (w : Operand) (b : Nat) :
    (assembleWord .little fun i => operandByte w (b + i)) = w.extractLsb' (8 * b) 64 := by
  have hbyte (i : Nat) : (operandByte w (b + i)).toNat = w.toNat / 2 ^ (8 * b) / 2 ^ (8 * i) % 2 ^ 8 := by
    rw [operandByte, BitVec.extractLsb'_toNat, Nat.shiftRight_eq_div_pow, Nat.mul_add, Nat.pow_add, Nat.div_div_eq_div_mul]
  refine BitVec.eq_of_toNat_eq ?_
  rw [assembleWord_little_toNat, BitVec.extractLsb'_toNat, Nat.shiftRight_eq_div_pow]
  simp only [hbyte, Finset.sum_range_succ, Finset.sum_range_zero]
  omega

theorem blockWords_little (len : Nat) (w : Operand) :
    blockWords .little len w = ((maskedOperand len w).extractLsb' 0 64, (maskedOperand len w).extractLsb' 64 64) := by
  have hlow := assembleWord_little_operandByte (maskedOperand len w) 0
  have hhigh := assembleWord_little_operandByte (maskedOperand len w) 8
  simp only [Nat.zero_add] at hlow
  rw [blockWords_eq_assembleWord_masked, hlow, hhigh]

/-! ## The counter -/

section Counter

variable {cfg : Config} {c : Command} {s : State}

theorem ingestedLen_of_hAbsorb {len : Len} {w : Operand} (h : decode c = .ok (.hAbsorb len w)) :
    ingestedLen c = len.setWidth 64 := by
  simp only [ingestedLen, h]

/-- Any absorption of a legal length, of none too, adds the length (42_hasher.md R114, R118). -/
theorem perform_hAbsorb_cnt {len : Len} (w : Operand) (hle : len.toNat ≤ 16) :
    (perform cfg (.hAbsorb len w) s).cnt = s.cnt + len.setWidth 64 := by
  rcases hAbsorbOn_cases cfg len w s with ⟨hgt, -⟩ | ⟨rfl, -⟩ | ⟨-, -, h⟩
  · omega
  · rw [perform_hAbsorb_zero]; simp
  · simp [perform, h, absorbBlock]

/-- Only `H.INIT` sets the counter; every other command, illegal ones too, adds what it ingests (42_hasher.md R117). -/
theorem performCommand_cnt (hc : ∀ v : Word, decode c ≠ .ok (.hInit v)) :
    (performCommand cfg c s).cnt = s.cnt + ingestedLen c := by
  cases hd : decode c with
  | error g => simp [performCommand_of_error hd, ingestedLen, hd, raiseIllegalCommand]
  | ok i =>
    rw [performCommand_of_ok hd]
    cases i with
    | hInit v => exact absurd hd (hc v)
    | hAbsorb len w =>
      rw [ingestedLen_of_hAbsorb hd]
      exact perform_hAbsorb_cnt w (of_decide_eq_true (wellFormed_of_decode_ok hd))
    | hFinal => simp [ingestedLen, hd, perform_hFinal_cnt]
    | _ => simp [ingestedLen, hd, perform_ssSeed, perform_ssNext, perform_ssDiscard]

theorem issueAll_cnt {cs : List Command} (hcs : ∀ c ∈ cs, ∀ v : Word, decode c ≠ .ok (.hInit v)) :
    (issueAll cfg cs s).cnt = s.cnt + (cs.map ingestedLen).sum := by
  induction cs generalizing s with
  | nil => simp
  | cons c cs ih =>
    obtain ⟨hc, hrest⟩ := List.forall_mem_cons.mp hcs
    rw [issueAll_cons, ih hrest, issue_cnt, performCommand_cnt hc, List.map_cons, List.sum_cons, add_assoc]

theorem issue_hInit_cnt (v : Word) : (issue cfg (encode (.hInit v)) s).1.cnt = 0 := by
  rw [issue_cnt, performCommand_encode cfg rfl, perform_hInit]

end Counter

/-! ## Exchanged lanes -/

/-- The halves of the operand, exchanged: bits move by 64 either way. -/
theorem swapHalves_getLsbD (w : Operand) (j : Nat) :
    (swapHalves w).getLsbD j = if j < 64 then w.getLsbD (64 + j) else w.getLsbD (j - 64) && decide (j < 128) := by
  have happend : (swapHalves w).getLsbD j = (w.extractLsb' 0 64 ++ w.extractLsb' 64 64 : BitVec (64 + 64)).getLsbD j := rfl
  rw [happend, BitVec.getLsbD_append]
  split_ifs with hj
  · simp [hj]
  · have hhigh : j - 64 < 64 ↔ j < 128 := by omega
    simp [hhigh, Bool.and_comm]

theorem operandByte_swapHalves_low (w : Operand) {i : Nat} (hi : i < 8) :
    operandByte (swapHalves w) i = operandByte w (8 + i) := by
  refine BitVec.eq_of_getLsbD_eq fun k hk => ?_
  have hlow : 8 * i + k < 64 := by omega
  have hbit : 64 + (8 * i + k) = 8 * (8 + i) + k := by omega
  simp [operandByte, swapHalves_getLsbD, hk, hlow, hbit]

theorem operandByte_swapHalves_high (w : Operand) {i : Nat} (hi : i < 8) :
    operandByte (swapHalves w) (8 + i) = operandByte w i := by
  refine BitVec.eq_of_getLsbD_eq fun k hk => ?_
  have hhigh : ¬8 * (8 + i) + k < 64 := by omega
  have hbit : 8 * (8 + i) + k - 64 = 8 * i + k := by omega
  have hlt : 8 * (8 + i) + k < 128 := by omega
  simp only [operandByte, BitVec.getLsbD_extractLsb', swapHalves_getLsbD, if_neg hhigh, hbit, hlt, decide_true,
    Bool.and_true]

theorem blockWords_swapHalves (order : ByteOrder) (w : Operand) :
    blockWords order 16 (swapHalves w) = (blockWords order 16 w).swap := by
  simp only [blockWords_eq_assembleWord_masked, maskedOperand_full, Prod.swap_prod_mk]
  exact congrArg₂ Prod.mk (assembleWord_congr order fun _ => operandByte_swapHalves_low w)
    (assembleWord_congr order fun _ => operandByte_swapHalves_high w)

/-- The hashers of two states are the same but for their lanes, which are exchanged. -/
structure LanesExchanged (s s' : State) : Prop where
  l0_eq : s'.l0 = s.l1
  l1_eq : s'.l1 = s.l0
  cnt_eq : s'.cnt = s.cnt

section Exchange

variable {cfg : Config} {s s' : State}

/-- The registers after a full block, as a transaction (42_hasher.md R114). -/
theorem issue_fullBlock_hasher (w : Operand) :
    (issue cfg (fullBlock w) s).1.hasher = (compress cfg s.l0 (blockWords cfg.byteOrder 16 w).1,
      compress cfg s.l1 (blockWords cfg.byteOrder 16 w).2, s.cnt + 16) := by
  rw [issue_hasher, fullBlock, performCommand_encode cfg rfl, perform_hAbsorb_of_pos w (by decide) (by decide)]
  rfl

theorem LanesExchanged.issue_fullBlock (h : LanesExchanged s s') (w : Operand) :
    LanesExchanged (issue cfg (fullBlock w) s).1 (issue cfg (fullBlock (swapHalves w)) s').1 := by
  have hs := issue_fullBlock_hasher (cfg := cfg) (s := s) w
  have hs' := issue_fullBlock_hasher (cfg := cfg) (s := s') (swapHalves w)
  rw [blockWords_swapHalves, h.l0_eq, h.l1_eq, h.cnt_eq] at hs'
  simp only [State.hasher, Prod.mk.injEq] at hs hs'
  obtain ⟨h0, h1, hc⟩ := hs
  obtain ⟨h0', h1', hc'⟩ := hs'
  exact ⟨h0'.trans h1.symm, h1'.trans h0.symm, hc'.trans hc.symm⟩

theorem LanesExchanged.issueAll_fullBlocks (h : LanesExchanged s s') (ws : List Operand) :
    LanesExchanged (issueAll cfg (ws.map fullBlock) s) (issueAll cfg (ws.map fun w => fullBlock (swapHalves w)) s') := by
  induction ws generalizing s s' with
  | nil => exact h
  | cons w ws ih => exact ih (h.issue_fullBlock w)

theorem issue_hFinal_response : (issue cfg (encode .hFinal) s).2 = ⟨.ok, digest cfg s.l0 s.l1 s.cnt⟩ :=
  issue_encode_response rfl rfl

/-- The merge adds the lanes first, so their order is lost (41_compress.md R104, 42_hasher.md R119). -/
theorem LanesExchanged.digest_eq (h : LanesExchanged s s') :
    digest cfg s'.l0 s'.l1 s'.cnt = digest cfg s.l0 s.l1 s.cnt := by
  rw [digest, digest, h.l0_eq, h.l1_eq, h.cnt_eq, compress_congr_sum (add_comm s.l1 s.l0)]

end Exchange

/-! ## The commands of an ingestion call, block by block -/

/-- `INSERT` issues the first block, or the partial block that is all of the buffer, and goes on with the rest
(44_compositions.md R141). -/
theorem insertCommands_of_ne_nil {b : List Byte} (hb : b ≠ []) :
    insertCommands b = encode (absorbBytes (b.take 16)) :: insertCommands (b.drop 16) := by
  have hpos := List.length_pos_of_ne_nil hb
  by_cases hfull : 16 ≤ b.length
  · have hdiv : b.length / 16 = (b.length - 16) / 16 + 1 := by omega
    have hmod : (b.length - 16) % 16 = b.length % 16 := by omega
    simp only [insertCommands, List.length_drop, hmod, hdiv, List.range_succ_eq_map, List.map_cons, List.map_map,
      List.drop_drop, Function.comp_def, Nat.mul_succ, Nat.add_comm 16, Nat.mul_zero, List.drop_zero, List.cons_append]
  · have hdiv : b.length / 16 = 0 := by omega
    have hmod : b.length % 16 ≠ 0 := by omega
    rw [List.take_of_length_le (by omega), List.drop_eq_nil_of_le (by omega), insertCommands_nil, insertCommands, hdiv,
      if_neg hmod]
    rfl

/-- Induction over the blocks of a buffer. -/
theorem blockInduction {P : List Byte → Prop} (nil : P []) (block : ∀ b : List Byte, b ≠ [] → P (b.drop 16) → P b)
    (b : List Byte) : P b := by
  induction hn : b.length using Nat.strong_induction_on generalizing b with
  | _ n ih =>
    by_cases hb : b = []
    · rw [hb]; exact nil
    · have hpos := List.length_pos_of_ne_nil hb
      exact block b hb (ih _ (by omega) _ (List.length_drop ..))

section Blocks

variable {x y : List Byte}

theorem length_word (hx : x.length ≤ 16) : (BitVec.ofNat 5 x.length).toNat = x.length := by
  rw [BitVec.toNat_ofNat]
  omega

theorem wellFormed_absorbBytes (hx : x.length ≤ 16) : (absorbBytes x).wellFormed = true :=
  decide_eq_true ((length_word hx).trans_le hx)

theorem decode_encode_absorbBytes (hx : x.length ≤ 16) :
    decode (encode (absorbBytes x)) = .ok (.hAbsorb (BitVec.ofNat 5 x.length) (packBytes x)) :=
  decode_encode (wellFormed_absorbBytes hx)

theorem ingestedLen_encode_absorbBytes (hx : x.length ≤ 16) :
    ingestedLen (encode (absorbBytes x)) = BitVec.ofNat 64 x.length := by
  rw [ingestedLen_of_hAbsorb (decode_encode_absorbBytes hx), ← BitVec.ofNat_toNat, length_word hx]

/-- The command of a block tells its length. -/
theorem length_eq_of_encode_absorbBytes_eq (hx : x.length ≤ 16) (hy : y.length ≤ 16)
    (h : encode (absorbBytes x) = encode (absorbBytes y)) : x.length = y.length := by
  have hlen := congrArg (fun c => (ingestedLen c).toNat) h
  simp only [ingestedLen_encode_absorbBytes hx, ingestedLen_encode_absorbBytes hy, BitVec.toNat_ofNat] at hlen
  omega

theorem issue_absorbBytes_cnt {cfg : Config} {s : State} (hx : x.length ≤ 16) :
    (issue cfg (encode (absorbBytes x)) s).1.cnt = s.cnt + BitVec.ofNat 64 x.length := by
  have hc (v : Word) : decode (encode (absorbBytes x)) ≠ .ok (.hInit v) := by simp [decode_encode_absorbBytes hx]
  rw [issue_cnt, performCommand_cnt hc, ingestedLen_encode_absorbBytes hx]

end Blocks

/-- One ingestion call adds the length of its buffer to the counter (42_hasher.md R117). -/
theorem insertBuffer_cnt (cfg : Config) (b : List Byte) (s : State) :
    (insertBuffer cfg b s).cnt = s.cnt + BitVec.ofNat 64 b.length := by
  induction b using blockInduction generalizing s with
  | nil => simp [insertBuffer]
  | block b hb ih =>
    have hsplit : b.length = (b.take 16).length + (b.drop 16).length := by
      rw [← List.length_append, List.take_append_drop]
    have hfirst := issue_absorbBytes_cnt (cfg := cfg) (s := s) (List.length_take_le 16 b)
    rw [insertBuffer, insertCommands_of_ne_nil hb, issueAll_cons, hsplit, BitVec.ofNat_add, ← add_assoc, ← hfirst]
    exact ih _

theorem foldl_insertBuffer_cnt (cfg : Config) (bufs : List (List Byte)) (s : State) :
    (bufs.foldl (fun t b => insertBuffer cfg b t) s).cnt = s.cnt + BitVec.ofNat 64 (bufs.map List.length).sum := by
  induction bufs generalizing s with
  | nil => simp
  | cons b bufs ih => rw [List.foldl_cons, ih, insertBuffer_cnt, List.map_cons, List.sum_cons, BitVec.ofNat_add, add_assoc]

/-- A partial block that is not the last one of the data differs from the block of the data joined: it is shorter. -/
theorem insertCommands_append_ne {a b : List Byte} (ha : a ≠ []) (hshort : a.length < 16) (hb : b ≠ []) :
    insertCommands a ++ insertCommands b ≠ insertCommands (a ++ b) := by
  rw [insertCommands_of_ne_nil ha, insertCommands_of_ne_nil (List.append_ne_nil_of_left_ne_nil ha b), List.cons_append]
  intro h
  have hlen := length_eq_of_encode_absorbBytes_eq (List.length_take_le ..) (List.length_take_le ..) (List.cons.inj h).1
  have hpos := List.length_pos_of_ne_nil hb
  simp only [List.length_take, List.length_append] at hlen
  omega

/-! ## The statements -/

/-- Settles O29. -/
theorem hInitTakesTwoDraws : Obligations.HInitTakesTwoDraws := by
  refine ⟨decode_hInitWord, fun v s => ?_, fun v heq => ?_, fun v s => ?_, fun s => rfl⟩
  · rw [exec_eq_next_perform, perform_hInit]
    rfl
  · exact inc_ne_zero refMeetsConstraints (add_eq_left.mp (refMix_injective heq).symm)
  · simp only [responsesTo, if_true, issue_ssSeed_response, issue_ssNext_response, issue_ssNext_ss, issue_ssSeed_ss, draw,
      one_mul]
    rfl

/-- Settles O30, by the three forms of an absorption; the words of the block and of the wide multiply are halves. -/
theorem hAbsorbCompressesPaddedBlock : Obligations.HAbsorbCompressesPaddedBlock := by
  refine ⟨decode_hAbsorbWord, fun len w s => ?_⟩
  rw [exec_eq_next_perform]
  congr 1
  split_ifs with hgt hzero
  · exact perform_hAbsorb_of_gt w hgt
  · obtain rfl : len = 0 := BitVec.eq_of_toNat_eq hzero
    exact perform_hAbsorb_zero refConfig s w
  · rw [perform_hAbsorb_of_pos w (by omega) (by omega)]
    simp only [compress, compressX, wmul_eq_halves_of_product, refConfig, blockWords_little]

/-- Settles O49. -/
theorem paddingIsMasking : Obligations.PaddingIsMasking :=
  ⟨blockWords_eq_blockWords_masked, blockWords_little, maskedOperand_full⟩

/-- Settles O50: `H.INIT` starts the count at 0, and both forms of the law hold from any state. -/
theorem counterLaw : Obligations.CounterLaw := by
  refine fun cfg s => ⟨fun cs hcs => ⟨issueAll_cnt hcs, fun v => ?_⟩, fun bufs v => ?_⟩
  · rw [issueAll_cons, issueAll_cnt hcs, issue_hInit_cnt, zero_add]
  · rw [foldl_insertBuffer_cnt, issue_hInit_cnt, zero_add]

/-- Settles O51. -/
theorem exchangedLanesGiveSameDigest : Obligations.ExchangedLanesGiveSameDigest := by
  intro cfg ws s s' h0 h1 hc
  have hfinal : LanesExchanged _ _ := LanesExchanged.issueAll_fullBlocks (cfg := cfg) ⟨h0, h1, hc⟩ ws
  refine ⟨hfinal.l0_eq, hfinal.l1_eq, ?_⟩
  rw [issue_hFinal_response, issue_hFinal_response, hfinal.digest_eq]

/-- Settles O52, by induction over the blocks of the first buffer: a full one is issued alike on both sides, and a partial one is
the last one on both sides exactly where nothing follows. -/
theorem callBoundaries : Obligations.CallBoundaries := by
  intro a b
  induction a using blockInduction with
  | nil => simp
  | block a ha ih =>
    have hpos := List.length_pos_of_ne_nil ha
    by_cases hfull : 16 ≤ a.length
    · have hdvd : 16 ∣ (a.drop 16).length ↔ 16 ∣ a.length := by
        rw [List.length_drop]
        omega
      rw [← hdvd, ← ih, insertCommands_of_ne_nil ha, insertCommands_of_ne_nil (List.append_ne_nil_of_left_ne_nil ha b),
        List.take_append_of_le_length hfull, List.drop_append_of_le_length hfull, List.cons_append, List.cons_inj_right]
    · have hndvd : ¬16 ∣ a.length := by omega
      by_cases hb : b = []
      · simp [hb]
      · simpa [hndvd, hb] using insertCommands_append_ne ha (by omega) hb

/-- Settles O31. -/
theorem emptyIngestionWritesNothing : Obligations.EmptyIngestionWritesNothing :=
  ⟨decode_hAbsorbWord 0, fun w s => (exec_eq_next_perform _ s).trans (congrArg _ (perform_hAbsorb_zero refConfig s w)),
    insertCommands_nil⟩

end Sys2Proof.Machine
end

section
/-! SUPPORT. The facts that the statements of 43_finalize.md need: the rotates and the merge of the REF digest, a sequence's
registers as a function of the registers it starts from, and zero bytes that fall on the padding of the last block. -/

namespace Sys2Proof.Machine

open Sys2Proof

/-! ## The digest of `H.FINAL` -/

/-- The command word with any operand (30_encoding.md R63). -/
theorem decode_hFinalWord (w : Operand) : decode ⟨0xC0, w⟩ = .ok .hFinal := by
  simp [decode, opField, argField]

/-- The two shifts of a rotate share no bit, so exclusive or joins them as or does (00_scope.md R13). -/
theorem ror64_eq_rotateRight (a : Word) {k : Nat} (hk : k < 64) : ror64 a k = a.rotateRight k := by
  refine BitVec.eq_of_getLsbD_eq fun i hi => ?_
  rw [ror64, BitVec.getLsbD_xor, BitVec.getLsbD_ushiftRight, BitVec.getLsbD_shiftLeft, BitVec.getLsbD_rotateRight,
    Nat.mod_eq_of_lt hk]
  by_cases hlow : i < 64 - k
  · simp [hlow]
  · have hout : 64 ≤ k + i := by omega
    simp [hlow, hi, BitVec.getLsbD_of_ge a (k + i) hout]

/-- The effect of `H.FINAL` under REF (43_finalize.md R131, R132). -/
theorem exec_hFinal (s : State) :
    exec .hFinal s = .next { s with offered := some ⟨.ok, refAvalanche (compress refConfig s.l0 s.l1) s.cnt⟩ } :=
  (exec_eq_next_perform .hFinal s).trans (congrArg _ (perform_hFinal_of_none rfl))

/-- The digest depends on the lanes only through their sum (43_finalize.md R131, 41_compress.md R104). -/
theorem digest_congr_sum (cfg : Config) {x y x' y' : Word} (c : Word) (h : x + y = x' + y') :
    digest cfg x y c = digest cfg x' y' c := by
  rw [digest, digest, compress_congr_sum h]

/-- The factor `C1` takes this sum to `C2` (41_compress.md R105). -/
theorem compress_ref_eq_zero {x y : Word} (h : x + y = 0x2492D73057315D9F) : compress refConfig x y = 0 := by
  obtain ⟨-, -, hzero, -⟩ := compressCornerValues
  exact hzero x y h

theorem refAvalanche_zero_zero : refAvalanche 0 0 = 0 := by decide

/-! ## A sequence starts from the registers -/

section Registers

variable {cfg : Config} {s s' : State}

/-- What a command leaves in the registers is a function of the registers (10_state.md R28); an illegal one leaves them. -/
theorem issue_registers_congr (c : Command) (h : s.registers = s'.registers) :
    (issue cfg c s).1.registers = (issue cfg c s').1.registers := by
  have hcmd : (performCommand cfg c s).registers = (performCommand cfg c s').registers := by
    cases hd : decode c with
    | ok i =>
      rw [performCommand_of_ok hd, performCommand_of_ok hd]
      exact (perform_congr_of_registers h).1
    | error g =>
      rw [performCommand_of_error hd, performCommand_of_error hd]
      exact h
  rw [issue_fields, issue_fields]
  exact hcmd

theorem issueAll_registers_congr (cs : List Command) (h : s.registers = s'.registers) :
    (issueAll cfg cs s).registers = (issueAll cfg cs s').registers := by
  induction cs generalizing s s' with
  | nil => exact h
  | cons c cs ih => exact ih (issue_registers_congr c h)

/-- Finalization as a transaction writes no register where `FINAL_MUTATES` is false (43_finalize.md R132). -/
theorem issue_hFinal_registers (hfinal : cfg.finalMutates = none) :
    (issue cfg (encode .hFinal) s).1.registers = s.registers := by
  rw [issue_encode_registers rfl, perform_hFinal_of_none hfinal]
  rfl

/-- A second finalization answers what the first one did (43_finalize.md R132). -/
theorem issue_hFinal_twice_response (hfinal : cfg.finalMutates = none) :
    (issue cfg (encode .hFinal) (issue cfg (encode .hFinal) s).1).2 = (issue cfg (encode .hFinal) s).2 := by
  have hidem : perform cfg .hFinal (perform cfg .hFinal s) = perform cfg .hFinal s := by
    simp only [perform_hFinal_of_none hfinal]
  exact (issue_twice_of_idempotent rfl hidem).2

end Registers

/-! ## Zero bytes within the last block -/

theorem packBytes_zeros (k : Nat) : packBytes (List.replicate k 0) = 0 := by
  induction k with
  | zero => rfl
  | succ k ih =>
    rw [List.replicate_succ, packBytes, ih]
    rfl

/-- Zero bytes at the end fall on bits of the operand that are zero already (30_encoding.md R67). -/
theorem packBytes_append_zeros (x : List Byte) (k : Nat) : packBytes (x ++ List.replicate k 0) = packBytes x := by
  induction x with
  | nil => exact packBytes_zeros k
  | cons b bs ih => rw [List.cons_append, packBytes, ih, packBytes]

theorem packBytes_getLsbD_of_ge {x : List Byte} {j : Nat} (hj : 8 * x.length ≤ j) : (packBytes x).getLsbD j = false := by
  induction x generalizing j with
  | nil => simp [packBytes]
  | cons b bs ih =>
    rw [List.length_cons] at hj
    have hrest := ih (j := j - 8) (by omega)
    have hhere : b.getLsbD j = false := BitVec.getLsbD_of_ge b j (by omega)
    simp [packBytes, hrest, hhere]

/-- No byte that was packed is cleared. -/
theorem maskedOperand_packBytes {x : List Byte} {len : Nat} (hx : x.length ≤ len) :
    maskedOperand len (packBytes x) = packBytes x := by
  refine BitVec.eq_of_getLsbD_eq fun j _ => ?_
  rw [maskedOperand_getLsbD]
  by_cases hj : j < 8 * len
  · rw [decide_eq_true hj, Bool.and_true]
  · rw [packBytes_getLsbD_of_ge (by omega), Bool.false_and]

/-- Every length that takes in all the bytes gives the same padded block (42_hasher.md R115). -/
theorem blockWords_packBytes (order : ByteOrder) {x : List Byte} {len : Nat} (hx : x.length ≤ len) :
    blockWords order len (packBytes x) = blockWords order 16 (packBytes x) := by
  rw [blockWords_eq_blockWords_masked, maskedOperand_packBytes hx]

section Insert

variable {cfg : Config} {x b : List Byte} {s : State}

/-- A nonempty block as a transaction (42_hasher.md R114); its bytes enter the lanes apart from their number. -/
theorem issue_absorbBytes (hpos : x ≠ []) (hx : x.length ≤ 16) :
    (issue cfg (encode (absorbBytes x)) s).1 =
      { s with l0 := compress cfg s.l0 (blockWords cfg.byteOrder 16 (packBytes x)).1,
               l1 := compress cfg s.l1 (blockWords cfg.byteOrder 16 (packBytes x)).2,
               cnt := s.cnt + BitVec.ofNat 64 x.length, offered := none, taken := s.taken ++ [⟨.ok, 0⟩] } := by
  have hlen := length_word hx
  have hone : 1 ≤ x.length := List.length_pos_of_ne_nil hpos
  have heffect := perform_hAbsorb_of_pos (cfg := cfg) (s := s) (packBytes x) (hone.trans_eq hlen.symm) (hlen.trans_le hx)
  rw [hlen, blockWords_packBytes _ le_rfl] at heffect
  have hresponse : (issue cfg (encode (absorbBytes x)) s).2 = ⟨.ok, 0⟩ :=
    issue_encode_response (wellFormed_absorbBytes hx) (congrArg State.offered heffect)
  rw [issue_fields, hresponse, performCommand_encode cfg (wellFormed_absorbBytes hx), absorbBytes, heffect]

theorem insertBuffer_of_ne_nil (hb : b ≠ []) :
    insertBuffer cfg b s = insertBuffer cfg (b.drop 16) (issue cfg (encode (absorbBytes (b.take 16))) s).1 := by
  rw [insertBuffer, insertCommands_of_ne_nil hb]
  rfl

/-- A buffer that one block holds. -/
theorem insertBuffer_of_length_le (hb : b ≠ []) (hle : b.length ≤ 16) :
    insertBuffer cfg b s = (issue cfg (encode (absorbBytes b)) s).1 := by
  rw [insertBuffer_of_ne_nil hb, List.take_of_length_le hle, List.drop_eq_nil_of_le hle]
  rfl

/-- Zero bytes appended within the last block move the counter and nothing else, by induction over the blocks of the buffer
(43_finalize.md R134). -/
theorem insertBuffer_append_zeros {k : Nat} (hmod : b.length % 16 ≠ 0) (hk : b.length % 16 + k ≤ 16) :
    insertBuffer cfg (b ++ List.replicate k 0) s =
      (insertBuffer cfg b s).setCnt ((insertBuffer cfg b s).cnt + BitVec.ofNat 64 k) := by
  induction b using blockInduction generalizing s with
  | nil => simp at hmod
  | block b hb ih =>
    have hext : b ++ List.replicate k 0 ≠ [] := List.append_ne_nil_of_left_ne_nil hb _
    by_cases hfull : 16 ≤ b.length
    · have hrest : (b.drop 16).length % 16 = b.length % 16 := by
        rw [List.length_drop]
        omega
      rw [insertBuffer_of_ne_nil hb, insertBuffer_of_ne_nil hext, List.take_append_of_le_length hfull,
        List.drop_append_of_le_length hfull]
      exact ih (hrest.trans_ne hmod) (by rwa [hrest])
    · have hle : b.length + k ≤ 16 := by omega
      have hlen : (b ++ List.replicate k 0).length = b.length + k := by simp
      rw [insertBuffer_of_length_le hb (by omega), insertBuffer_of_length_le hext (hlen.trans_le hle),
        issue_absorbBytes hb (by omega), issue_absorbBytes hext (hlen.trans_le hle), packBytes_append_zeros, hlen,
        BitVec.ofNat_add, ← add_assoc]
      rfl

end Insert

/-- `HASH` answers the digest of the lanes and the counter that the ingestion leaves (44_compositions.md R142). -/
theorem hashBuffer_digest (cfg : Config) (b : List Byte) (seed : Word) (s : State) :
    (hashBuffer cfg b seed s).2 =
      digest cfg (insertBuffer cfg b (issue cfg (encode (.hInit seed)) s).1).l0
        (insertBuffer cfg b (issue cfg (encode (.hInit seed)) s).1).l1
        (insertBuffer cfg b (issue cfg (encode (.hInit seed)) s).1).cnt :=
  congrArg Response.data issue_hFinal_response

/-- The avalanche is injective in the counter (00_scope.md R10). -/
theorem digest_ne_of_cnt_ne {cfg : Config} (hcfg : cfg.Valid) (l0 l1 : Word) {c c' : Word} (hc : c ≠ c') :
    digest cfg l0 l1 c ≠ digest cfg l0 l1 c' :=
  (hcfg.avalanche_injective (compress cfg l0 l1)).ne hc

/-! ## The statements -/

/-- Settles O32: the rotates and the halves of the product are the library's, and the sum of the corner case merges to 0. -/
theorem hFinalReturnsDigest : Obligations.HFinalReturnsDigest := by
  refine ⟨decode_hFinalWord, fun s => ?_, fun cfg _ _ _ _ c h => digest_congr_sum cfg c h, fun s hsum hcnt => ?_⟩
  · rw [exec_hFinal, refAvalanche, ror64_eq_rotateRight _ (by decide), ror64_eq_rotateRight _ (by decide), compress,
      wmul_eq_halves_of_product, compressX]
    rfl
  · rw [exec_hFinal, compress_ref_eq_zero hsum, hcnt, refAvalanche_zero_zero]

/-- Settles O33: the registers after `H.FINAL` are those before it, and all that follows is a function of the registers. -/
theorem finalizationOnlyReads : Obligations.FinalizationOnlyReads := by
  refine ⟨rfl, fun cfg hfinal => ⟨fun s => perform_hFinal_of_none hfinal, fun s => ?_, fun cs ds s => ?_⟩⟩
  · refine ⟨digest cfg s.l0 s.l1 s.cnt, ?_⟩
    simp only [responsesTo, if_true, issue_hFinal_twice_response hfinal, issue_hFinal_response]
  · rw [issueAll_append, issueAll_append, issueAll_cons]
    exact issueAll_registers_congr ds (issue_hFinal_registers hfinal)

/-- Settles O55: the two ingestions end in the same lanes, and in counters that are `k` apart. -/
theorem trailingZeroBytesChangeDigest : Obligations.TrailingZeroBytesChangeDigest := by
  refine fun cfg hcfg => ⟨fun l0 l1 _ _ => digest_ne_of_cnt_ne hcfg l0 l1, fun b seed k s hmod hpos hk => ?_⟩
  have hk0 : BitVec.ofNat 64 k ≠ 0 := by
    intro h
    have hzero : k % 2 ^ 64 = 0 := congrArg BitVec.toNat h
    omega
  rw [hashBuffer_digest, hashBuffer_digest, insertBuffer_append_zeros hmod hk]
  exact digest_ne_of_cnt_ne hcfg _ _ fun h => hk0 (add_eq_left.mp h.symm)

end Sys2Proof.Machine
end

section
/-! SUPPORT. The facts that the statements of 44_compositions.md need: the bytes that the commands of an ingestion call carry,
that such a call is the hasher's alone, that `H.INIT` erases all that came before in the hasher, and the words of the two
extended outputs one by one. -/

namespace Sys2Proof.Machine

open Sys2Proof

/-! ## The bytes of a block -/

theorem packBytes_cons_getLsbD (b : Byte) (bs : List Byte) {j : Nat} (hj : j < 128) :
    (packBytes (b :: bs)).getLsbD j = if j < 8 then b.getLsbD j else (packBytes bs).getLsbD (j - 8) := by
  rw [packBytes, BitVec.getLsbD_or, BitVec.getLsbD_shiftLeft, BitVec.getLsbD_setWidth]
  split_ifs with hlow
  · simp [hlow, hj]
  · rw [BitVec.getLsbD_of_ge b j (by omega)]
    simp only [hlow, hj, decide_true, decide_false, Bool.not_false, Bool.true_and, Bool.and_false, Bool.or_false]

theorem operandByte_packBytes_zero (b : Byte) (bs : List Byte) : operandByte (packBytes (b :: bs)) 0 = b := by
  refine BitVec.eq_of_getLsbD_eq fun k hk => ?_
  simp [operandByte, packBytes_cons_getLsbD b bs (j := k) (by omega), hk]

theorem operandByte_packBytes_succ (b : Byte) (bs : List Byte) {i : Nat} (hi : i + 1 < 16) :
    operandByte (packBytes (b :: bs)) (i + 1) = operandByte (packBytes bs) i := by
  refine BitVec.eq_of_getLsbD_eq fun k hk => ?_
  have hhigh : ¬8 * (i + 1) + k < 8 := by omega
  have hbit : 8 * (i + 1) + k - 8 = 8 * i + k := by omega
  simp [operandByte, packBytes_cons_getLsbD b bs (j := 8 * (i + 1) + k) (by omega), hhigh, hbit]

/-- The block reads back the bytes that the host laid out (30_encoding.md R67, 20_memory.md R41). -/
theorem map_operandByte_packBytes {x : List Byte} (hx : x.length ≤ 16) :
    (List.range x.length).map (operandByte (packBytes x)) = x := by
  induction x with
  | nil => rfl
  | cons b bs ih =>
    rw [List.length_cons] at hx
    have hrest : (List.range bs.length).map (operandByte (packBytes (b :: bs)) ∘ Nat.succ) =
        (List.range bs.length).map (operandByte (packBytes bs)) :=
      List.map_congr_left fun i hi => operandByte_packBytes_succ b bs ((Nat.succ_lt_succ (List.mem_range.mp hi)).trans_le hx)
    rw [List.length_cons, List.range_succ_eq_map, List.map_cons, List.map_map, operandByte_packBytes_zero, hrest,
      ih (by omega)]

theorem ingestedBytes_encode_absorbBytes {x : List Byte} (hx : x.length ≤ 16) :
    ingestedBytes (encode (absorbBytes x)) = x := by
  simp only [ingestedBytes, decode_encode_absorbBytes hx, length_word hx, map_operandByte_packBytes hx]

/-! ## The commands of an ingestion call -/

section InsertCommands

variable {b : List Byte} {c : Command}

theorem insertCommands_length (b : List Byte) :
    (insertCommands b).length = b.length / 16 + (if b.length % 16 = 0 then 0 else 1) := by
  rw [insertCommands, List.length_append, List.length_map, List.length_range]
  split_ifs <;> rfl

/-- Each command is the listing's absorption of a nonempty block. -/
theorem exists_block_of_mem_insertCommands (hc : c ∈ insertCommands b) :
    ∃ x : List Byte, x ≠ [] ∧ x.length ≤ 16 ∧ c = encode (absorbBytes x) := by
  induction b using blockInduction with
  | nil => simp at hc
  | block b hb ih =>
    rw [insertCommands_of_ne_nil hb] at hc
    rcases List.mem_cons.mp hc with hfirst | hrest
    · exact ⟨b.take 16, by simpa using hb, List.length_take_le 16 b, hfirst⟩
    · exact ih hrest

theorem exists_decode_of_mem_insertCommands (hc : c ∈ insertCommands b) :
    ∃ (len : Len) (w : Operand), 1 ≤ len.toNat ∧ decode c = .ok (.hAbsorb len w) := by
  obtain ⟨x, hne, hx, rfl⟩ := exists_block_of_mem_insertCommands hc
  exact ⟨_, _, (List.length_pos_of_ne_nil hne).trans_eq (length_word hx).symm, decode_encode_absorbBytes hx⟩

theorem insertCommands_flatMap_ingestedBytes (b : List Byte) : (insertCommands b).flatMap ingestedBytes = b := by
  induction b using blockInduction with
  | nil => rfl
  | block b hb ih =>
    rw [insertCommands_of_ne_nil hb, List.flatMap_cons, ih, ingestedBytes_encode_absorbBytes (List.length_take_le 16 b),
      List.take_append_drop]

/-- A block that another one follows is full. -/
theorem ingestedBytes_length_of_mem_dropLast (hc : c ∈ (insertCommands b).dropLast) : (ingestedBytes c).length = 16 := by
  induction b using blockInduction with
  | nil => simp at hc
  | block b hb ih =>
    rw [insertCommands_of_ne_nil hb] at hc
    by_cases hlast : b.drop 16 = []
    · simp [hlast] at hc
    · have hlong : 16 < b.length := by simpa using hlast
      rw [insertCommands_of_ne_nil hlast, List.dropLast_cons_cons, ← insertCommands_of_ne_nil hlast] at hc
      rcases List.mem_cons.mp hc with rfl | hrest
      · rw [ingestedBytes_encode_absorbBytes (List.length_take_le 16 b), List.length_take]
        omega
      · exact ih hrest

/-- None of them is the generator's (10_state.md R25). -/
theorem generatorCommand_of_mem_insertCommands (hc : c ∈ insertCommands b) : generatorCommand c = false := by
  obtain ⟨len, w, -, hd⟩ := exists_decode_of_mem_insertCommands hc
  simp [generatorCommand, hd, onGenerator]

end InsertCommands

/-! ## A sequence seen by one unit -/

theorem hasherCommand_encode {i : Instr} (hi : i.wellFormed = true) : hasherCommand (encode i) = !onGenerator i := by
  rw [hasherCommand, decode_encode hi]

/-- What a sequence leaves in a view that is alone with its commands is a function of the view. -/
theorem Isolated.issueAll_congr {α : Type} {cfg : Config} {keep : Command → Bool} {view : State → α}
    (h : Isolated cfg keep view) (cs : List Command) {s s' : State} (hview : view s = view s') :
    view (issueAll cfg cs s) = view (issueAll cfg cs s') :=
  (h.filter cs s s' hview).1.trans (h.filter cs s' s' rfl).1.symm

/-- A sequence in which no command is kept leaves the view. -/
theorem Isolated.issueAll_frame {α : Type} {cfg : Config} {keep : Command → Bool} {view : State → α}
    (h : Isolated cfg keep view) {cs : List Command} (hcs : ∀ c ∈ cs, keep c = false) (s : State) :
    view (issueAll cfg cs s) = view s := by
  have hnone : cs.filter keep = [] := List.filter_eq_nil_iff.mpr fun c hc => by simp [hcs c hc]
  have hfilter := (h.filter cs s s rfl).1
  rwa [hnone] at hfilter

/-! ## An ingestion call, and a finalization after it -/

section Ingestion

variable (cfg : Config) (b : List Byte) {s s' : State}

theorem insertBuffer_ss (s : State) : (insertBuffer cfg b s).ss = s.ss :=
  (isolated_generator cfg).issueAll_frame (fun _ => generatorCommand_of_mem_insertCommands) s

theorem insertBuffer_hasher_congr (h : s.hasher = s'.hasher) :
    (insertBuffer cfg b s).hasher = (insertBuffer cfg b s').hasher :=
  (isolated_hasher cfg).issueAll_congr (insertCommands b) h

/-- Two calls are one where the first buffer fills its last block (42_hasher.md R116). -/
theorem insertBuffer_insertBuffer {a : List Byte} (ha : 16 ∣ a.length) (s : State) :
    insertBuffer cfg b (insertBuffer cfg a s) = insertBuffer cfg (a ++ b) s := by
  rw [insertBuffer, insertBuffer, ← issueAll_append, (callBoundaries a b).mpr (.inl ha), insertBuffer]

theorem issue_hFinal_insertBuffer_ss (s : State) :
    (issue cfg (encode .hFinal) (insertBuffer cfg b s)).1.ss = s.ss := by
  rw [issue_encode_ss rfl, perform_ss_of_not_onGenerator rfl, insertBuffer_ss]

theorem issue_hFinal_insertBuffer_cnt (s : State) :
    (issue cfg (encode .hFinal) (insertBuffer cfg b s)).1.cnt = s.cnt + BitVec.ofNat 64 b.length := by
  rw [issue_cnt, performCommand_encode cfg rfl, perform_hFinal_cnt, insertBuffer_cnt]

theorem issue_hFinal_insertBuffer_response_congr (h : s.hasher = s'.hasher) :
    (issue cfg (encode .hFinal) (insertBuffer cfg b s)).2 = (issue cfg (encode .hFinal) (insertBuffer cfg b s')).2 :=
  (isolated_hasher cfg).response_congr _ _ _ (hasherCommand_encode rfl) (insertBuffer_hasher_congr cfg b h)

end Ingestion

/-! ## `HASH` -/

section Hash

variable (cfg : Config) (b : List Byte) (seed : Word)

theorem issue_hInit_ss (s : State) : (issue cfg (encode (.hInit seed)) s).1.ss = s.ss :=
  issue_encode_ss rfl

/-- Construction forgets the hasher's past (42_hasher.md R111). -/
theorem issue_hInit_hasher_congr (s s' : State) :
    (issue cfg (encode (.hInit seed)) s).1.hasher = (issue cfg (encode (.hInit seed)) s').1.hasher := by
  rw [issue_hasher, issue_hasher, performCommand_encode cfg rfl, performCommand_encode cfg rfl]
  rfl

theorem hashBuffer_ss (s : State) : (hashBuffer cfg b seed s).1.ss = s.ss :=
  (issue_hFinal_insertBuffer_ss cfg b _).trans (issue_hInit_ss cfg seed s)

theorem hashBuffer_cnt (s : State) : (hashBuffer cfg b seed s).1.cnt = BitVec.ofNat 64 b.length := by
  have hcnt := issue_hFinal_insertBuffer_cnt cfg b (issue cfg (encode (.hInit seed)) s).1
  rwa [issue_hInit_cnt, zero_add] at hcnt

theorem hashBuffer_digest_congr (s s' : State) : (hashBuffer cfg b seed s).2 = (hashBuffer cfg b seed s').2 :=
  congrArg Response.data (issue_hFinal_insertBuffer_response_congr cfg b (issue_hInit_hasher_congr cfg seed s s'))

end Hash

/-! ## The words of `HASHMANY` -/

theorem le64_length (v : Word) : (le64 v).length = 8 := by simp [le64]

section HashMany

variable (cfg : Config) (b : List Byte)

theorem indexedHash_ss (i : Nat) (t : Word) (s : State) : (indexedHash cfg b i t s).1.ss = s.ss :=
  (issue_hFinal_insertBuffer_ss cfg _ _).trans ((insertBuffer_ss cfg b _).trans (issue_hInit_ss cfg t s))

theorem indexedHash_cnt (i : Nat) (t : Word) (s : State) :
    (indexedHash cfg b i t s).1.cnt = BitVec.ofNat 64 (b.length + 8) := by
  have hcnt := issue_hFinal_insertBuffer_cnt cfg (le64 (BitVec.ofNat 64 i))
    (insertBuffer cfg b (issue cfg (encode (.hInit t)) s).1)
  rwa [insertBuffer_cnt, issue_hInit_cnt, zero_add, le64_length, ← BitVec.ofNat_add] at hcnt

theorem indexedHash_word_congr (i : Nat) (t : Word) (s s' : State) :
    (indexedHash cfg b i t s).2 = (indexedHash cfg b i t s').2 :=
  congrArg Response.data (issue_hFinal_insertBuffer_response_congr cfg _
    (insertBuffer_hasher_congr cfg b (issue_hInit_hasher_congr cfg t s s')))

variable (i : Nat) (ts : List Word) (s : State)

/-- Each word can be computed from any state `s'` whatever, in any order (44_compositions.md R146). -/
theorem indexedHashes_words (s' : State) :
    (indexedHashes cfg b i ts s).2 = ts.mapIdx fun k t => (indexedHash cfg b (i + k) t s').2 := by
  induction ts generalizing i s with
  | nil => rfl
  | cons t ts ih =>
    rw [indexedHashes, ih, indexedHash_word_congr cfg b i t s s', List.mapIdx_cons]
    simp only [Nat.add_zero, Nat.add_assoc, Nat.add_comm 1]

theorem indexedHashes_ss : (indexedHashes cfg b i ts s).1.ss = s.ss := by
  induction ts generalizing i s with
  | nil => rfl
  | cons t ts ih => rw [indexedHashes, ih, indexedHash_ss]

/-- The last word was computed last: it leaves the counter at the buffer's length and the index's. -/
theorem indexedHashes_cnt (hts : ts ≠ []) : (indexedHashes cfg b i ts s).1.cnt = BitVec.ofNat 64 (b.length + 8) := by
  induction ts generalizing i s with
  | nil => exact absurd rfl hts
  | cons t ts ih =>
    rw [indexedHashes]
    by_cases hlast : ts = []
    · rw [hlast]
      exact indexedHash_cnt cfg b i t s
    · exact ih _ _ hlast

end HashMany

/-! ## The words of `HASHMANY.CHAIN` -/

section Chain

variable (cfg : Config)

/-- The word of index `i` after the word `prev`, and the state it leaves (44_compositions.md R149). -/
def chainedWord (i : Nat) (prev : Word) (s : State) : State × Word :=
  let r := issue cfg (encode .hFinal) (insertBuffer cfg (le64 (BitVec.ofNat 64 i) ++ le64 prev) s)
  (r.1, r.2.data)

variable (n i : Nat) (prev : Word) (s : State)

theorem chainedWord_ss : (chainedWord cfg i prev s).1.ss = s.ss := issue_hFinal_insertBuffer_ss cfg _ s

theorem chainedWord_cnt : (chainedWord cfg i prev s).1.cnt = s.cnt + 16 := by
  have hcnt := issue_hFinal_insertBuffer_cnt cfg (le64 (BitVec.ofNat 64 i) ++ le64 prev) s
  rwa [List.length_append, le64_length, le64_length] at hcnt

/-- The recursion of the model: the first word, then the others from it. -/
theorem chainedHashes_succ :
    chainedHashes cfg (n + 1) i prev s =
      let r := chainedWord cfg i prev s
      let q := chainedHashes cfg n (i + 1) r.2 r.1
      (q.1, r.2 :: q.2) := rfl

/-- The same sequence from its end: one more word is the chained word of the last one. -/
theorem chainedHashes_succ_last :
    chainedHashes cfg (n + 1) i prev s =
      let r := chainedHashes cfg n i prev s
      let q := chainedWord cfg (i + n) (r.2.getLastD prev) r.1
      (q.1, r.2 ++ [q.2]) := by
  induction n generalizing i prev s with
  | zero => rfl
  | succ n ih =>
    rw [chainedHashes_succ cfg (n + 1), chainedHashes_succ cfg n i]
    simp only [ih, List.getLastD_cons, List.cons_append, Nat.add_assoc, Nat.add_comm 1]

theorem chainedHashes_length : (chainedHashes cfg n i prev s).2.length = n := by
  induction n generalizing i prev s with
  | zero => rfl
  | succ n ih => rw [chainedHashes_succ, List.length_cons, ih]

theorem chainedHashes_ss : (chainedHashes cfg n i prev s).1.ss = s.ss := by
  induction n generalizing i prev s with
  | zero => rfl
  | succ n ih => exact (ih _ _ _).trans (chainedWord_ss cfg i prev s)

theorem chainedHashes_cnt : (chainedHashes cfg n i prev s).1.cnt = s.cnt + BitVec.ofNat 64 (16 * n) := by
  induction n generalizing i prev s with
  | zero => simp [chainedHashes]
  | succ n ih =>
    rw [chainedHashes_succ, ih, chainedWord_cnt, Nat.mul_succ, Nat.add_comm, BitVec.ofNat_add, add_assoc]
    rfl

variable (b : List Byte) (seed : Word)

theorem hashManyChain_succ :
    hashManyChain cfg b (n + 1) seed s =
      let r := hashBuffer cfg b seed s
      let q := chainedHashes cfg n 1 r.2 r.1
      (q.1, r.2 :: q.2) := rfl

theorem hashManyChain_length : (hashManyChain cfg b n seed s).2.length = n := by
  cases n with
  | zero => rfl
  | succ n => rw [hashManyChain_succ, List.length_cons, chainedHashes_length]

theorem hashManyChain_ss : (hashManyChain cfg b n seed s).1.ss = s.ss := by
  cases n with
  | zero => rfl
  | succ n => exact (chainedHashes_ss cfg n 1 _ _).trans (hashBuffer_ss cfg b seed s)

theorem hashManyChain_succ_cnt :
    (hashManyChain cfg b (n + 1) seed s).1.cnt = BitVec.ofNat 64 (b.length + 16 * n) := by
  rw [hashManyChain_succ, chainedHashes_cnt, hashBuffer_cnt, ← BitVec.ofNat_add]

/-- One more word than some is the chained word of the last one (44_compositions.md R149). -/
theorem exists_hashManyChain_succ_last (hn : 1 ≤ n) :
    ∃ prev : Word,
      let r := hashManyChain cfg b n seed s
      let q := chainedWord cfg n prev r.1
      r.2.getLast? = some prev ∧ hashManyChain cfg b (n + 1) seed s = (q.1, r.2 ++ [q.2]) := by
  obtain ⟨m, rfl⟩ := Nat.exists_eq_add_of_le' hn
  refine ⟨(hashManyChain cfg b (m + 1) seed s).2.getLastD 0, ?_, ?_⟩
  · rw [hashManyChain_succ, List.getLastD_cons, List.getLast?_cons, List.getLastD_eq_getLast?]
  · rw [hashManyChain_succ cfg (m + 1), hashManyChain_succ cfg m]
    simp only [chainedHashes_succ_last, List.getLastD_cons, List.cons_append, Nat.add_comm 1]

/-- The words do not change when more are asked for. -/
theorem hashManyChain_prefix : (hashManyChain cfg b n seed s).2 <+: (hashManyChain cfg b (n + 1) seed s).2 := by
  cases n with
  | zero => exact List.nil_prefix
  | succ n =>
    obtain ⟨prev, -, hlast⟩ := exists_hashManyChain_succ_last cfg (n + 1) s b seed (Nat.le_add_left 1 n)
    rw [hlast]
    exact List.prefix_append ..

end Chain

/-! ## The statements -/

/-- Settles O53, over the blocks of the buffer. -/
theorem insertIngestsBuffer : Obligations.InsertIngestsBuffer := fun b =>
  ⟨insertCommands_length b, insertCommands_flatMap_ingestedBytes b, fun _ => ingestedBytes_length_of_mem_dropLast,
    fun _ => exists_decode_of_mem_insertCommands, fun cfg s => ⟨insertBuffer_cnt cfg b s, insertBuffer_ss cfg b s⟩⟩

/-- Settles O56: all that follows `H.INIT` is a function of the hasher, and two calls split at a full block are one. -/
theorem hashIsDeterministic : Obligations.HashIsDeterministic := by
  refine fun cfg b seed s s' => ⟨hashBuffer_digest_congr cfg b seed s s', hashBuffer_ss cfg b seed s, fun a ha => ?_⟩
  rw [insertBuffer_insertBuffer cfg b ha]
  exact hashBuffer_digest_congr cfg (a ++ b) seed s s'

/-- Settles O57: the seeds are the generator's draws in closed form, and each word is hashed from any state. -/
theorem extendedOutputWordByWord : Obligations.ExtendedOutputWordByWord := by
  intro cfg b n seed s s' r
  have hdraws := drawSeeds_draws cfg (issue cfg (encode (.ssSeed seed)) s).1 n
  rw [issue_ssSeed_ss] at hdraws
  refine ⟨?_, ?_, ?_, fun hn => indexedHashes_cnt cfg b 0 _ _ ?_⟩
  · refine (indexedHashes_words cfg b 0 _ _ s').trans ?_
    rw [hdraws]
    exact List.ext_getElem (by simp) fun k _ _ => by simp [draw]
  · exact (indexedHashes_ss cfg b 0 _ _).trans ((drawSeeds_ss cfg _ n).trans (by rw [issue_ssSeed_ss]))
  · rintro rfl
    exact (isolated_hasher cfg).frame _ s (hasherCommand_encode rfl)
  · rw [hdraws]
    simpa using Nat.one_le_iff_ne_zero.mp hn

/-- Settles O58: the sequence read from its end, one chained word at a time. -/
theorem chainedOutput : Obligations.ChainedOutput := fun cfg b n seed s =>
  ⟨rfl, rfl, exists_hashManyChain_succ_last cfg n s b seed, hashManyChain_length cfg n s b seed,
    hashManyChain_prefix cfg n s b seed, rfl, hashManyChain_ss cfg (n + 1) s b seed, hashManyChain_succ_cnt cfg n s b seed⟩

end Sys2Proof.Machine
end

section
/-! SUPPORT. The facts that the statements of 60_exceptions.md need: an illegal command as a transaction, that the responses of a
sequence are a function of the registers it starts from, and when a transaction makes a run a faulted one. -/

namespace Sys2Proof.Machine

open Sys2Proof

/-! ## An illegal command as a transaction -/

section Illegal

variable {cfg : Config} {c : Command} {s : State}

theorem issue_response_of_not_legalWord (h : legalWord c.cmd = false) : (issue cfg c s).2 = ⟨.illegal, 0⟩ :=
  issue_response (by rw [performCommand_of_not_legalWord cfg s h]; rfl)

theorem issue_registers_of_not_legalWord (h : legalWord c.cmd = false) :
    (issue cfg c s).1.registers = s.registers := by
  rw [issue_fields, performCommand_of_not_legalWord cfg s h]
  rfl

/-- The exception is raised for no other command (60_exceptions.md R160, R162). -/
theorem issue_response_illegal_iff : (issue cfg c s).2.status = .illegal ↔ legalWord c.cmd = false := by
  cases hlegal : legalWord c.cmd with
  | false => simp [issue_response_of_not_legalWord hlegal]
  | true =>
    obtain ⟨d, hd⟩ := performCommand_offers_ok cfg s hlegal
    simp [issue_response hd]

end Illegal

/-! ## The responses of a sequence -/

section Responses

variable {cfg : Config} {s s' : State}

/-- What a command answers is a function of the registers (10_state.md R28); an illegal one always answers alike. -/
theorem issue_response_registers_congr (c : Command) (h : s.registers = s'.registers) :
    (issue cfg c s).2 = (issue cfg c s').2 := by
  apply issue_response_congr
  cases hd : decode c with
  | ok i =>
    rw [performCommand_of_ok hd, performCommand_of_ok hd]
    exact (perform_congr_of_registers h).2
  | error g =>
    rw [performCommand_of_error hd, performCommand_of_error hd]
    rfl

theorem responsesTo_registers_congr (keep : Command → Bool) (cs : List Command) (h : s.registers = s'.registers) :
    responsesTo cfg keep cs s = responsesTo cfg keep cs s' := by
  induction cs generalizing s s' with
  | nil => rfl
  | cons c cs ih =>
    simp only [responsesTo, issue_response_registers_congr c h, ih (issue_registers_congr c h)]

theorem responsesTo_append (keep : Command → Bool) (cs ds : List Command) :
    responsesTo cfg keep (cs ++ ds) s = responsesTo cfg keep cs s ++ responsesTo cfg keep ds (issueAll cfg cs s) := by
  induction cs generalizing s with
  | nil => rfl
  | cons c cs ih => cases hc : keep c <;> simp [responsesTo, hc, ih]

end Responses

/-! ## Faulted runs (60_exceptions.md R160, 93_implementation_defined.md U8) -/

section FaultedRuns

variable {cfg : Config} {s : State}

theorem faulted_iff_taken (hoff : s.offered = none) : Faulted s ↔ ∃ r ∈ s.taken, r.status = .illegal := by
  simp [Faulted, hoff]

/-- A transaction adds its own response to those that count, and no other. -/
theorem faulted_issue_iff (c : Command) (hoff : s.offered = none) :
    Faulted (issue cfg c s).1 ↔ Faulted s ∨ legalWord c.cmd = false := by
  have hissued : (issue cfg c s).1.offered = none := by rw [issue_fields]
  have htaken : (issue cfg c s).1.taken = s.taken ++ [(issue cfg c s).2] := by rw [issue_fields]
  rw [faulted_iff_taken hissued, faulted_iff_taken hoff, htaken]
  simp [or_and_right, exists_or, issue_response_illegal_iff]

end FaultedRuns

/-! ## The statements -/

/-- Settles O7: the step accepts the command, and the word's effect under REF is the exception. -/
theorem reservedWordAnswersIllegal : Obligations.ReservedWordAnswersIllegal := by
  intro s p rest hin hrst hoff hvalid hillegal
  rw [step_of_command hin hrst hoff hvalid, acceptCommand_exec,
    performCommand_of_not_legalWord refConfig { s with inputs := rest } hillegal, raiseIllegalCommand_eq]

/-- Settles O21: the illegal command leaves the registers, and all that follows it is a function of the registers. -/
theorem illegalCommandIsPrecise : Obligations.IllegalCommandIsPrecise := by
  intro cfg cs ds c s hillegal
  have hregs := issue_registers_of_not_legalWord (cfg := cfg) (s := issueAll cfg cs s) hillegal
  refine ⟨?_, ?_, fun t => ⟨issue_response_of_not_legalWord hillegal, issue_registers_of_not_legalWord hillegal⟩⟩
  · rw [issueAll_append, issueAll_append, issueAll_cons]
    exact issueAll_registers_congr ds hregs
  · have hlength := (responsesInCommandOrder cfg cs s).2
    have hlater := responsesTo_registers_congr (cfg := cfg) (fun _ => true) ds hregs
    simp only [responsesTo_append, List.take_left' hlength, List.drop_left' hlength]
    simp only [responsesTo, if_true, issue_response_of_not_legalWord hillegal, hlater]

/-- Settles O22, by induction on the commands: after each transaction no response is offered. -/
theorem faultedRunsHaveIllegalWord : Obligations.FaultedRunsHaveIllegalWord := by
  intro cfg cs
  induction cs with
  | nil => simp
  | cons c cs ih =>
    intro s hoff
    have hissued : (issue cfg c s).1.offered = none := by rw [issue_fields]
    rw [issueAll_cons, ih _ hissued, faulted_issue_iff c hoff, List.exists_mem_cons_iff, or_assoc]

end Sys2Proof.Machine
end

section
/-! SUPPORT. The facts that the statements of 70_reset_and_hazards.md need: the registers after reset written out, and the steps
in which the block is reset or left idle. -/

namespace Sys2Proof.Machine

open Sys2Proof

/-- The reset values of the four registers, the lanes being those of seed 0 (70_reset_and_hazards.md R180). -/
theorem resetBlock_ref_values (s : State) :
    resetBlock refConfig s =
      { ss := 0, l0 := 0xE220A8397B1DCDAF, l1 := 0x6E789E6AA1B965F4, cnt := 0, offered := none,
        inputs := s.inputs, taken := s.taken } := by
  have hlanes : refConfig.laneInit 0 = (0xE220A8397B1DCDAF, 0x6E789E6AA1B965F4) := by decide
  rw [resetBlock, hlanes]

section Moments

variable {s : State} {p : PortIn} {rest : List PortIn}

/-- A step in which `rst` is high is a reset, whatever the other ports hold (70_reset_and_hazards.md R181). -/
theorem step_of_reset (hin : s.inputs = p :: rest) (hrst : p.rst = true) :
    step s = .next (resetBlock refConfig { s with inputs := rest }) := by
  simp [step_of_cons hin, portMoment, hrst]

/-- A step in which the host offers nothing to a block that offers nothing: only the moment passes (20_memory.md R47). -/
theorem step_of_idle (hin : s.inputs = p :: rest) (hrst : p.rst = false) (hvalid : p.cmdValid = false)
    (hoff : s.offered = none) : step s = .next { s with inputs := rest } := by
  simp [step_of_cons hin, portMoment, hrst, hvalid, hoff]

end Moments

/-- With no moment of the ports to come the step answers the same state (log entry 9). -/
theorem step_of_no_inputs {s : State} (hin : s.inputs = []) : step s = .next s := by
  simp [step, portStep, hin]

/-! ## The statements -/

/-- Settles O11. -/
theorem idleStepChangesNothing : Obligations.IdleStepChangesNothing :=
  ⟨fun _ => step_of_no_inputs, fun _ _ _ => step_of_idle⟩

/-- Settles O12. -/
theorem resetWinsFromEveryState : Obligations.ResetWinsFromEveryState := by
  intro s p rest hin hrst
  rw [step_of_reset hin hrst, resetBlock_ref_values]

/-- Settles O13: the first step accepts the command and leaves the moments to come and the responses taken alone (O8); the second
is a reset from whatever state the command left (O12). -/
theorem resetAbandonsAcceptedCommand : Obligations.ResetAbandonsAcceptedCommand := by
  intro s p q rest hin hrst hoff hvalid hreset
  obtain ⟨t, -, haccept, -, hnext, htaken, -⟩ := everyCommandAnswersOnce s p (q :: rest) hin hrst hoff hvalid
  have hfirst : Sys2Proof.core.step s = .next t := haccept
  have hsecond : Sys2Proof.core.step t = _ := resetWinsFromEveryState t q rest hnext hreset
  simp only [Host.Core.run, hfirst, hsecond, htaken]

end Sys2Proof.Machine
end
